-- ==== Sys2Proof/Word.lean ====
section
/-! DEFINITION. The word types of the core: bytes, 16-bit quantities and 3-byte addresses (00_scope.md R6, R10, R11). -/

namespace Sys2Proof

/-- A byte, 8 bits, bit 7 the most significant (R10). -/
abbrev Byte := BitVec 8

/-- A 16-bit quantity: the checksum, the position operand and result (R9, R99). -/
abbrev Word16 := BitVec 16

/-- A motor or controller address: exactly three bytes, byte 0 first (R6, R22). -/
structure Addr where
  b0 : Byte
  b1 : Byte
  b2 : Byte
  deriving DecidableEq, Repr

end Sys2Proof
end

