-- ==== Sys2Proof/Config.lean ====
section
/-! DEFINITION. What an implementation fixes and the spec leaves open: the clock frequency (00_scope.md R9, D3), the address strap at power-on (R44, D20), and the free values of registers that hold no defined value (10_state.md R45, R140). None has a body, so nothing can be proved of a particular value. -/

namespace Sys2Proof

/-- `CLK_HZ` less one: the clock frequency is an open positive integer (R9, D3; log 3). -/
opaque Config.clkHzPred : Nat

/-- The strap `cfg_addr` while the power-on reset is applied, external byte order, first byte in bits 23:16 (R40, R290, D20; log 5). -/
opaque Config.cfgAddr : BitVec 24

/-- The free byte number `i` of draw number `k`: what a byte register holds while R45 gives it no value (log 7). -/
opaque Config.freeByte (k i : Nat) : Byte

/-- The free count of draw number `k`: what `RX_PCOUNT` holds, within its range, while R45 gives it no value (log 7). -/
opaque Config.freeCount (k : Nat) : Nat

end Sys2Proof
end

