-- ==== Sys2Proof/Machine/Parameters.lean ====
section
/-! DEFINITION. The constants and parameters of 00_scope.md R6 to R9: sizes, protocol constants, message IDs, and the two durations in clock periods. -/

namespace Sys2Proof.Machine

/-- `HDR_LEN` = 9 bytes of header (R6). -/
def hdrLen : Nat := 9

/-- `OVERHEAD` = 11 = header and checksum (R6). -/
def overhead : Nat := 11

/-- `MAX_PAYLOAD` = 20 (R6). -/
def maxPayload : Nat := 20

/-- `CTRL_ADDR` = 7F 7F 7F, the source of every frame the core builds (R7). -/
def ctrlAddr : Addr := ⟨0x7F, 0x7F, 0x7F⟩

/-- `NODE_TYPE_TX` = 00 (R7). -/
def nodeTypeTx : Byte := 0x00

/-- Message ID of MOVE (R7, R106). -/
def idMove : Byte := 0x03

/-- Message ID of QUERY (R7, R106). -/
def idQuery : Byte := 0x0C

/-- Message ID of POSREPORT (R7, R106). -/
def idPosreport : Byte := 0x0D

/-- Message ID of NACK (R7, R106). -/
def idNack : Byte := 0x6F

/-- Message ID of ACK (R7, R106). -/
def idAck : Byte := 0x7F

/-- The function code of the MOVE payload (R7, R101). -/
def functionCode : Byte := 0x04

/-- The sentinel NACK error code for an empty payload (R7, R105). -/
def nackSentinel : Byte := 0xFF

/-- `CLK_HZ`, a positive integer, open (R9). -/
def clkHz : Nat := Config.clkHzPred + 1

/-- `N_SPACE = ceil(CLK_HZ / 10)`: clock periods in 100 ms (R9). -/
def nSpace : Nat := (clkHz + 9) / 10

/-- `N_BACKOFF = CLK_HZ`: clock periods in 1 s (R9). -/
def nBackoff : Nat := clkHz

/-- `MOTOR_ADDR` from the strap: the external order reversed, once (R22, R44). -/
def addrOfStrap (cfg : BitVec 24) : Addr :=
  ⟨cfg.extractLsb' 0 8, cfg.extractLsb' 8 8, cfg.extractLsb' 16 8⟩

end Sys2Proof.Machine
end

