-- ==== Sys2Proof/Syntax.lean ====
section
/-! DEFINITION. The instructions: one constructor per row of spec/opcode_table.json, two host commands and five wire messages (30_encoding.md R90, R106, R107). -/

namespace Sys2Proof

/-- A frame without its message ID and checksum, in logical (un-inverted) bytes (R13, R91): the combined byte whole, so that the reserved bits 6:5 are kept as they came (R111), nodeType, source, destination, payload. -/
structure Message where
  comb    : Byte
  node    : Byte
  src     : Addr
  dst     : Addr
  payload : List Byte
  deriving DecidableEq, Repr

/-- The instructions of the core. -/
inductive Instr where
  /-- SET_POSITION p: `cmd_op` = 0, operand `cmd_pos`, 16 bits two's complement (R107, R194). -/
  | setPosition (pos : Word16)
  /-- GET_POSITION: `cmd_op` = 1, `cmd_pos` ignored (R107, R195). -/
  | getPosition
  /-- MOVE, messageID 0x03, core to device (R101). -/
  | move (f : Message)
  /-- QUERY, messageID 0x0C, core to device (R102). -/
  | query (f : Message)
  /-- POSREPORT, messageID 0x0D, device to core (R103). -/
  | posreport (f : Message)
  /-- NACK, messageID 0x6F, device to core (R105). -/
  | nack (f : Message)
  /-- ACK, messageID 0x7F, device to core (R104). -/
  | ack (f : Message)
  deriving DecidableEq, Repr

/-- Why the pure codec rejects (R135, R138): the three errors of DECODE, of which ENCODE can raise the second. -/
inductive CodecError where
  /-- a read failed before the frame was complete (R62, R138) -/
  | transport
  /-- LEN below 11 on decode, payload above 20 bytes on encode (R142, R135) -/
  | malformed
  /-- the received checksum differs from the computed one (R145) -/
  | checksum (expected received : Word16)
  deriving DecidableEq, Repr

/-- One answer of the transport to `RxRead` (R62): a byte, or a failure (timeout, end of stream, link error). -/
inductive RxAnswer where
  | byte (b : Byte)
  | failure
  deriving DecidableEq, Repr

/-- A decoded frame: the message ID and the rest, logical bytes (R138). -/
structure Frame where
  id  : Byte
  msg : Message
  deriving DecidableEq, Repr

end Sys2Proof
end

