-- ==== Sys2Proof/Machine/Codec.lean ====
section
/-! DEFINITION. The pure forms of the codec (40_codec.md R130 to R138): INV, CHECKSUM, the field layout of a frame, ENCODE and DECODE as functions of bytes. The byte-serial forms are in Machine/Ops.lean. -/

namespace Sys2Proof.Machine

/-- `INV(b)`: the one's complement of a byte (R130). -/
def inv (b : Byte) : Byte := ~~~b

/-- `CHECKSUM(w)`: the sum of the wire bytes modulo 2^16 (R132). -/
def checksum (w : List Byte) : Word16 := BitVec.ofNat 16 (w.map BitVec.toNat).sum

/-- Bits 15:8 (R132). -/
def hiByte (w : Word16) : Byte := w.extractLsb' 8 8

/-- Bits 7:0 (R132). -/
def loByte (w : Word16) : Byte := w.extractLsb' 0 8

/-- `u16be(hi, lo) = 256·hi + lo` (R11). -/
def u16be (hi lo : Byte) : Word16 := hi ++ lo

/-- `u16le(lo, hi) = lo + 256·hi` (R11). -/
def u16le (lo hi : Byte) : Word16 := hi ++ lo

/-- The combined byte `(ack << 7) | (11 + n)`, bits 6:5 zero (R93, R96). -/
def combinedByte (ack : Bool) (n : Nat) : Byte :=
  (if ack then 0x80 else 0x00) ||| BitVec.ofNat 8 (overhead + n)

/-- `LEN`, bits 4:0 of the combined byte (R93, R97). -/
def lenField (comb : Byte) : Nat := (comb.extractLsb' 0 5).toNat

/-- LEN is 5 bits wide (R93). -/
theorem lenField_lt (comb : Byte) : lenField comb < 32 := (comb.extractLsb' 0 5).isLt

/-- `ackRequired`, bit 7 of the combined byte (R93). -/
def ackField (comb : Byte) : Bool := comb.getLsbD 7

/-- The three bytes of an address, byte 0 first (R91). -/
def addrBytes (a : Addr) : List Byte := [a.b0, a.b1, a.b2]

/-- The logical header and payload of a frame in the fixed field order (R91, R135: the list `L`). -/
def logicalBytes (id : Byte) (f : Message) : List Byte :=
  [id, f.comb, f.node] ++ addrBytes f.src ++ addrBytes f.dst ++ f.payload

/-- The inverted header and payload (R135: the list `Wb`). -/
def bodyBytes (id : Byte) (f : Message) : List Byte := (logicalBytes id f).map inv

/-- The wire image: inverted header and payload, then the checksum, big-endian and not inverted (R99, R100). -/
def wireImage (id : Byte) (f : Message) : List Byte :=
  bodyBytes id f ++ [hiByte (checksum (bodyBytes id f)), loByte (checksum (bodyBytes id f))]

/-- The message the operands of ENCODE describe; the length field is derived (R96, R135). -/
def messageOfOperands (ack : Bool) (node : Byte) (src dst : Addr) (payload : List Byte) : Message :=
  ⟨combinedByte ack payload.length, node, src, dst, payload⟩

/-- `ENCODE(msgid, ack, node, src, dst, payload)`, pure form (R135). -/
def encodeFrame (id : Byte) (ack : Bool) (node : Byte) (src dst : Addr) (payload : List Byte) :
    Except CodecError (List Byte) :=
  if maxPayload < payload.length then .error .malformed
  else .ok (wireImage id (messageOfOperands ack node src dst payload))

/-- `n` successful reads, or the failure that ends them; the end of the answers is a failed read (R62, R138). -/
def takeBytes : Nat → List RxAnswer → Except CodecError (List Byte × List RxAnswer)
  | 0, as => .ok ([], as)
  | n + 1, .byte b :: as =>
    match takeBytes n as with
    | .ok (bs, rest) => .ok (b :: bs, rest)
    | .error e => .error e
  | _ + 1, _ => .error .transport

/-- The end of DECODE: two checksum bytes, not inverted, compared with the sum of the raw wire bytes `w` (R138, R145). -/
def decodeChecksum (f : Frame) (w : List Byte) :
    List RxAnswer → Except CodecError (Frame × List RxAnswer)
  | .byte hi :: .byte lo :: rest =>
    if u16be hi lo = checksum w then .ok (f, rest)
    else .error (.checksum (checksum w) (u16be hi lo))
  | _ => .error .transport

/-- `DECODE(stream)` as a pure function of the answers to `RxRead` (R138): the frame and the answers not asked for, or the error. -/
def decodeStream : List RxAnswer → Except CodecError (Frame × List RxAnswer)
  | .byte m :: .byte c :: .byte n :: .byte s0 :: .byte s1 :: .byte s2
      :: .byte d0 :: .byte d1 :: .byte d2 :: rest =>
    if lenField (inv c) < overhead then .error .malformed
    else
      match takeBytes (lenField (inv c) - overhead) rest with
      | .error e => .error e
      | .ok (p, rest') =>
        decodeChecksum
          ⟨inv m, ⟨inv c, inv n, ⟨inv s0, inv s1, inv s2⟩, ⟨inv d0, inv d1, inv d2⟩, p.map inv⟩⟩
          ([m, c, n, s0, s1, s2, d0, d1, d2] ++ p) rest'
  | _ => .error .transport

end Sys2Proof.Machine
end

