-- ==== Sys2Proof/WellFormed.lean ====
section
/-! DEFINITION. When an instruction is well formed: its frame can stand on the wire (30_encoding.md R91, R93, R97, R110). Also the exact forms of the two messages the core builds (R101, R102). -/

namespace Sys2Proof

/-- A frame that can stand on the wire: at most 20 payload bytes, and LEN = 11 + n. The ack bit, the reserved bits 6:5, nodeType, addresses and payload are free (R93, R111, R112). -/
def Message.wf (f : Message) : Bool :=
  decide (f.payload.length ≤ Machine.maxPayload) &&
    decide (Machine.lenField f.comb = Machine.overhead + f.payload.length)

/-- An instruction is well formed when its frame is; every host command is well formed (R114). -/
def Instr.wf : Instr → Bool
  | .setPosition _ => true
  | .getPosition => true
  | .move f => f.wf
  | .query f => f.wf
  | .posreport f => f.wf
  | .nack f => f.wf
  | .ack f => f.wf

/-- The form of a MOVE the core builds for the device at `dst` (R101): ack bit set, target `t` in payload bytes 1 and 2, low byte first. -/
def Message.isMove (f : Message) (dst : Addr) (t : Word16) : Bool :=
  decide (f = ⟨0x8F, Machine.nodeTypeTx, Machine.ctrlAddr, dst,
    [Machine.functionCode, Machine.loByte t, Machine.hiByte t, 0x00]⟩)

/-- The form of a QUERY the core builds for the device at `dst` (R102): ack bit clear, empty payload. -/
def Message.isQuery (f : Message) (dst : Addr) : Bool :=
  decide (f = ⟨0x0B, Machine.nodeTypeTx, Machine.ctrlAddr, dst, []⟩)

end Sys2Proof
end

