-- ==== Sys2Proof/Decode.lean ====
section
/-! DEFINITION. Decoding and encoding of instructions: the host command port (30_encoding.md R107), the message map (R106) over frames taken apart by the codec (R138), and the host's table words. -/

namespace Sys2Proof

open Machine

/-- What an instruction looks like outside the core: a command at the host port (R107) or the wire bytes of a frame (R91). -/
inductive Image where
  | hostcmd (op : BitVec 1) (pos : Word16)
  | frame (wire : List Byte)
  deriving DecidableEq, Repr

/-- Why a decoder gives no instruction. -/
inductive Reject where
  /-- the codec's own error (R138) -/
  | codec (e : CodecError)
  /-- a good frame whose message ID is in no row of the message map (R109) -/
  | unknownMessage (id : Byte)
  /-- bytes are left after the frame: the image is not one instruction -/
  | trailingBytes
  deriving DecidableEq, Repr

/-- The host command port: both values of the one bit are defined (R107, R114). -/
def decodeHostCmd (op : BitVec 1) (pos : Word16) : Instr :=
  if op = 0 then .setPosition pos else .getPosition

/-- The message map: logical byte 0 alone selects the message, mask 0xFF (R92, R106). -/
def messageOf (id : Byte) (f : Message) : Except Reject Instr :=
  if id = idMove then .ok (.move f)
  else if id = idQuery then .ok (.query f)
  else if id = idPosreport then .ok (.posreport f)
  else if id = idNack then .ok (.nack f)
  else if id = idAck then .ok (.ack f)
  else .error (.unknownMessage id)

/-- One instruction from the front of a byte stream, with the bytes it does not need (R68, R97, R106). -/
def decodeFrame (wire : List Byte) : Except Reject (Instr × List RxAnswer) :=
  match decodeStream (wire.map .byte) with
  | .error e => .error (.codec e)
  | .ok (fr, rest) =>
    match messageOf fr.id fr.msg with
    | .error e => .error e
    | .ok i => .ok (i, rest)

/-- Decoding of one whole image; total, every rejection named. -/
def decode : Image → Except Reject Instr
  | .hostcmd op pos => .ok (decodeHostCmd op pos)
  | .frame wire =>
    match decodeFrame wire with
    | .error e => .error e
    | .ok (i, []) => .ok i
    | .ok (_, _ :: _) => .error .trailingBytes

/-- The encoder, from the same tables: the port values of a command (R107; `cmd_pos` of GET_POSITION is ignored and written 0), the wire image of a message (R100). -/
def encode : Instr → Image
  | .setPosition pos => .hostcmd 0 pos
  | .getPosition => .hostcmd 1 0
  | .move f => .frame (wireImage idMove f)
  | .query f => .frame (wireImage idQuery f)
  | .posreport f => .frame (wireImage idPosreport f)
  | .nack f => .frame (wireImage idNack f)
  | .ack f => .frame (wireImage idAck f)

/-- Byte `k` of a table word of `nbits` bits, the bits above `nbits` zero. -/
def tableByte (nbits w k : Nat) : Byte :=
  if 8 * k < nbits then BitVec.ofNat 8 (w / 2 ^ (8 * k)) else 0

/-- The payload size of the frame a table word of one byte stands for: the table gives LEN no bits, and the length is derived, never an input (R96, R135): MOVE 4, QUERY 0, POSREPORT 5, NACK 1 (its error code), ACK 0 (log 11). -/
def tablePayload (id : Byte) : Option Nat :=
  if id = idMove then some 4
  else if id = idQuery then some 0
  else if id = idPosreport then some 5
  else if id = idNack then some 1
  else if id = idAck then some 0
  else none

/-- The combined byte of a table word: its second byte where the word has one, else the derived length with the ack bit clear (log 11). -/
def tableComb (nbits w n : Nat) : Byte :=
  if nbits ≤ 8 then combinedByte false n else tableByte nbits w 1

/-- The frame of a table word: byte `k` of the word is logical byte `k`, and the payload is as long as the combined byte says (R91, R97). -/
def tableMessage (nbits w n : Nat) : Message :=
  let b := tableByte nbits w
  ⟨tableComb nbits w n, b 2, ⟨b 3, b 4, b 5⟩, ⟨b 6, b 7, b 8⟩,
    (List.range (lenField (tableComb nbits w n) - overhead)).map fun k => b (hdrLen + k)⟩

/-- A table word as the hardware would see it (log 11): the five message IDs are frames, every other word is a host command with `cmd_op` in bit 0 and `cmd_pos` in bits 23:8. -/
def tableImage (nbits w : Nat) : Image :=
  match tablePayload (tableByte nbits w 0) with
  | some n => .frame (wireImage (tableByte nbits w 0) (tableMessage nbits w n))
  | none => .hostcmd (BitVec.ofNat 1 w) (u16le (tableByte nbits w 1) (tableByte nbits w 2))

/-- The instruction the decoder reads from a word numbered as the opcode table numbers it. -/
def decodeTableWord (nbits w : Nat) : Option Instr :=
  match decode (tableImage nbits w) with
  | .ok i => some i
  | .error _ => none

end Sys2Proof
end

