-- ==== Sys2Proof/Machine/State.lean ====
section
/-! DEFINITION. The state of the core: every register of 10_state.md R22 to R34, and three fields of the model's own (the transmit stream, the coming inputs, the counter of free values). Plain data. The core has no memory (20_memory.md R60). -/

namespace Sys2Proof.Machine

/-- `FSM`, the command sequencer; codes 6 and 7 are never written and do not exist here (R30, U11). -/
inductive Fsm where
  | idle | space | xmit | await | backoff | done
  deriving DecidableEq, Repr

/-- `RES_STATUS`; code 7 is never written and does not exist here (R32, U11). -/
inductive Status where
  | ok | validationError | transportError | checksumError | malformedFrameError | protocolError
  | maxRetriesExceededError
  deriving DecidableEq, Repr

/-- The transmit frame registers (R27): `TX_MSGID`, `TX_ACK`, `TX_PCOUNT` (0 to 20), `TX_NODE`, `TX_SRC`, `TX_DST`, `TX_PAYLOAD[0..19]`. -/
structure TxFrame where
  msgid   : Byte
  ack     : Bool
  pcount  : Fin 21
  node    : Byte
  src     : Addr
  dst     : Addr
  payload : Vector Byte 20
  deriving DecidableEq, Repr

/-- The receive frame registers (R29): `RX_MSGID`, `RX_COMB`, `RX_NODE`, `RX_SRC`, `RX_DST`, `RX_PCOUNT` (0 to 20), `RX_PAYLOAD[0..19]`. -/
structure RxFrame where
  msgid   : Byte
  comb    : Byte
  node    : Byte
  src     : Addr
  dst     : Addr
  pcount  : Fin 21
  payload : Vector Byte 20
  deriving DecidableEq, Repr

/-- The result registers (R32, R33, R34): `RES_STATUS`, `RES_POS`, `RES_ERRCODE`, `RES_MSGID`, `RES_CK_EXP`, `RES_CK_RCV`. -/
structure Results where
  status  : Status
  pos     : Word16
  errcode : Byte
  msgid   : Byte
  ckExp   : Word16
  ckRcv   : Word16
  deriving DecidableEq, Repr

/-- What the input ports of R40 show at one moment, and whether a clock period has passed since the moment before: with `tick` set this is a rising edge of `clk`, with `tick` clear it is an event that follows another within the same period (R41, R170; log 1). `lag` is no port but the free delay of R306: with it set, a transition of the core's own that is due does not happen before this moment has passed (log 2). -/
structure Inputs where
  tick     : Bool
  lag      : Bool
  rst      : Bool
  cfgAddr  : BitVec 24
  cmdValid : Bool
  cmdOp    : BitVec 1
  cmdPos   : Word16
  resReady : Bool
  txReady  : Bool
  txErr    : Bool
  rxValid  : Bool
  rxData   : Byte
  rxErr    : Bool
  deriving DecidableEq, Repr

/-- The whole state. -/
structure State where
  /-- `MOTOR_ADDR[0..2]`, internal order (R22) -/
  motorAddr  : Addr
  /-- `SPACE_CNT`, 0 to N_SPACE (R23) -/
  spaceCnt   : Nat
  /-- `ATTEMPT`, 0, 1 or 2 (R24) -/
  attempt    : Fin 3
  /-- `CMD_OP`: 0 SET_POSITION, 1 GET_POSITION (R25) -/
  cmdOp      : BitVec 1
  /-- `BACKOFF_CNT`, 0 to N_BACKOFF (R26) -/
  backoffCnt : Nat
  /-- the transmit frame registers (R27) -/
  tx         : TxFrame
  /-- `TX_IDX`, 5 bits (R28) -/
  txIdx      : Fin 32
  /-- `TX_SUM` (R28) -/
  txSum      : Word16
  /-- the receive frame registers (R29) -/
  rx         : RxFrame
  /-- `RX_IDX`, 5 bits (R31) -/
  rxIdx      : Fin 32
  /-- `RX_SUM` (R31) -/
  rxSum      : Word16
  /-- `RX_CK` (R31) -/
  rxCk       : Word16
  /-- `FSM` (R30) -/
  fsm        : Fsm
  /-- the result registers (R32 to R34) -/
  res        : Results
  /-- MODEL's own: the transmit stream TX, the wire bytes the transport has taken, oldest first (R60, R63; log 9) -/
  txOut      : List Byte
  /-- MODEL's own: what the input ports show at the coming moments, next first (R20, R40; log 1, log 2, log 9) -/
  env        : List Inputs
  /-- MODEL's own: how many draws of free values have been made (log 7, log 8) -/
  freeCnt    : Nat
  deriving DecidableEq, Repr

/-- Why the machine stops with a fault: states in which no rule of the spec gives an effect, and which no run from reset reaches (log 14). Safe: a claim can only become unprovable. -/
inductive Fault where
  /-- raised by `sendByte` when TX_IDX is beyond the frame: R136 gives no wire byte there; safe -/
  | txIndexBeyondFrame
  /-- raised by `receiveByte` when RX_IDX is beyond the frame: R141 to R144 give no step there; safe -/
  | rxIndexBeyondFrame
  deriving DecidableEq, Repr

/-- Why the machine gives a step no meaning. -/
inductive Refusal where
  /-- an instruction with no meaning yet, raised by `exec` alone; safe -/
  | notModelled (mnemonic : String)
  /-- raised by `endBackoff` when ATTEMPT is already 2: the value 3 is never written (R24), and U11 asks to refuse it; no run reaches it; safe -/
  | attemptBeyondTwo
  deriving DecidableEq, Repr

/-- The transmit frame registers after reset: unspecified by R44, zero by choice (log 6). -/
def TxFrame.zero : TxFrame :=
  ⟨0, false, 0, 0, ⟨0, 0, 0⟩, ⟨0, 0, 0⟩, Vector.replicate 20 0⟩

/-- The receive frame registers after reset: unspecified by R44 and R45, zero by choice (log 6). -/
def RxFrame.zero : RxFrame :=
  ⟨0, 0, 0, ⟨0, 0, 0⟩, ⟨0, 0, 0⟩, 0, Vector.replicate 20 0⟩

/-- The result registers cleared (R34, R44). -/
def Results.zero : Results := ⟨.ok, 0, 0, 0, 0, 0⟩

/-- The machine right after reset (R44), with the strap of the configuration, nothing sent and no input given (log 5, log 9, log 10). -/
def State.reset : State where
  motorAddr  := addrOfStrap Config.cfgAddr
  spaceCnt   := nSpace
  attempt    := 0
  cmdOp      := 0
  backoffCnt := 0
  tx         := TxFrame.zero
  txIdx      := 0
  txSum      := 0
  rx         := RxFrame.zero
  rxIdx      := 0
  rxSum      := 0
  rxCk       := 0
  fsm        := .idle
  res        := Results.zero
  txOut      := []
  env        := []
  freeCnt    := 0

end Sys2Proof.Machine
end

