-- ==== Sys2Proof/Machine/Operands.lean ====
section
/-! DEFINITION. The operands of the instructions and how they are read from the registers: the position operand and the position mapping (42_engine.md R190 to R192), payload formats (30_encoding.md R101 to R105), the frame registers as messages (10_state.md R27, R29), the present inputs (R40). -/

namespace Sys2Proof.Machine

/-- No input: every port low, no delay inside the core, and the clock goes on. What the ports show when `env` gives nothing more (log 1). -/
def quietInputs : Inputs := ⟨true, false, false, 0, false, 0, 0, false, false, false, false, 0, false⟩

/-- The inputs at the present moment. -/
def State.input (s : State) : Inputs := s.env.headD quietInputs

/-- The position operand, `sext_16(cmd_pos)`, is legal: 0 to 100 (R108, R192). -/
def positionLegal (pos : Word16) : Bool := decide (0 ≤ pos.toInt ∧ pos.toInt ≤ 100)

/-- Caller to device: `100 − callerPos` (R190). -/
def deviceTarget (pos : Word16) : Word16 := BitVec.ofInt 16 (100 - pos.toInt)

/-- Device to caller: `100 − percentageClosed` over the integers, as 16-bit two's complement, not clamped (R191). -/
def callerPosition (closed : Byte) : Word16 := BitVec.ofInt 16 (100 - (closed.toNat : Int))

/-- The MOVE the core builds (R101, R193). -/
def moveMessage (dst : Addr) (t : Word16) : Message :=
  messageOfOperands true nodeTypeTx ctrlAddr dst [functionCode, loByte t, hiByte t, 0x00]

/-- The QUERY the core builds (R102, R210). -/
def queryMessage (dst : Addr) : Message :=
  messageOfOperands false nodeTypeTx ctrlAddr dst []

/-- The error code of a NACK: its first payload byte, or the sentinel for an empty payload (R105, R202). -/
def nackCode (payload : List Byte) : Byte := payload.headD nackSentinel

/-- The five fields of a position report (R103). -/
structure PositionReport where
  pulsePosition    : Word16
  percentageClosed : Byte
  reserved         : Byte
  ip               : Byte
  deriving DecidableEq, Repr

/-- A position report from the first five payload bytes; bytes beyond are ignored, fewer give none (R212, R213). -/
def positionReport : List Byte → Option PositionReport
  | p0 :: p1 :: closed :: reserved :: ip :: _ => some ⟨u16le p0 p1, closed, reserved, ip⟩
  | _ => none

/-- The message in the transmit frame registers, its length field derived (R96, R136). -/
def TxFrame.message (t : TxFrame) : Message :=
  messageOfOperands t.ack t.node t.src t.dst (t.payload.toList.take t.pcount)

/-- The message in the receive frame registers (R29, R138). -/
def RxFrame.message (r : RxFrame) : Message :=
  ⟨r.comb, r.node, r.src, r.dst, r.payload.toList.take r.pcount⟩

/-- A payload buffer with its first bytes written over by a payload, the others kept (R193). -/
def overwrite (old : Vector Byte 20) (p : List Byte) : Vector Byte 20 :=
  Vector.ofFn fun k => if h : k.val < p.length then p[k.val] else old[k.val]

/-- The transmit frame registers with a message written to them; the combined byte gives `TX_ACK`, its length field is not stored (R27, R193, R210). -/
def TxFrame.load (t : TxFrame) (id : Byte) (f : Message) (h : f.payload.length ≤ maxPayload) : TxFrame where
  msgid   := id
  ack     := ackField f.comb
  pcount  := ⟨f.payload.length, Nat.lt_succ_of_le h⟩
  node    := f.node
  src     := f.src
  dst     := f.dst
  payload := overwrite t.payload f.payload

/-- Free values in every receive frame register, from draw `k`: what they hold when DECODE begins (R45, R140; log 7). -/
def freeRxFrame (k : Nat) : RxFrame where
  msgid   := Config.freeByte k 0
  comb    := Config.freeByte k 1
  node    := Config.freeByte k 2
  src     := ⟨Config.freeByte k 3, Config.freeByte k 4, Config.freeByte k 5⟩
  dst     := ⟨Config.freeByte k 6, Config.freeByte k 7, Config.freeByte k 8⟩
  pcount  := ⟨Config.freeCount k % 21, Nat.mod_lt _ (by decide)⟩
  payload := Vector.ofFn fun j => Config.freeByte k (hdrLen + j.val)

end Sys2Proof.Machine
end

