-- ==== Sys2Proof/Machine/Flags.lean ====
section
/-! DEFINITION. The flag-like state of the core: RES_STATUS and the result information registers (10_state.md R32 to R34; 60_exceptions.md R240). There are no condition codes (R32). -/

namespace Sys2Proof.Machine

/-- The code of each status (R32, R240). -/
def Status.code : Status → BitVec 3
  | .ok => 0
  | .validationError => 1
  | .transportError => 2
  | .checksumError => 3
  | .malformedFrameError => 4
  | .protocolError => 5
  | .maxRetriesExceededError => 6

/-- The code of each sequencer state (R30). -/
def Fsm.code : Fsm → BitVec 3
  | .idle => 0
  | .space => 1
  | .xmit => 2
  | .await => 3
  | .backoff => 4
  | .done => 5

/-- The six errors with the information each carries (R240 to R246). -/
inductive CallError where
  | validation
  | transport
  | checksum (expected received : Word16)
  | malformed
  | protocol (msgid : Byte)
  | maxRetries (code : Byte)
  deriving DecidableEq, Repr

/-- The status an error leaves (R240). -/
def CallError.status : CallError → Status
  | .validation => .validationError
  | .transport => .transportError
  | .checksum _ _ => .checksumError
  | .malformed => .malformedFrameError
  | .protocol _ => .protocolError
  | .maxRetries _ => .maxRetriesExceededError

/-- The information registers an error names are written, then RES_STATUS (R250); every other result register keeps its value. -/
def CallError.record (e : CallError) (r : Results) : Results :=
  match e with
  | .validation => { r with status := .validationError }
  | .transport => { r with status := .transportError }
  | .checksum expected received =>
    { r with status := .checksumError, ckExp := expected, ckRcv := received }
  | .malformed => { r with status := .malformedFrameError }
  | .protocol msgid => { r with status := .protocolError, msgid := msgid }
  | .maxRetries code => { r with status := .maxRetriesExceededError, errcode := code }

end Sys2Proof.Machine
end

