-- ==== Sys2Proof/Machine/Ops.lean ====
section
/-! DEFINITION. The named operations the meanings share: taking an error (60_exceptions.md R250) and leaving it (42_engine.md R221), the scheduler (41_scheduler.md), the byte-serial codec (40_codec.md R136, R140 to R146), acceptance, backoff and reset. -/

namespace Sys2Proof.Machine

/-! ### Errors: entry and return -/

/-- `raise E(info)`: the information registers, RES_STATUS, FSM ← DONE, and nothing else (R250). -/
def raise (e : CallError) (s : State) : State :=
  { s with res := e.record s.res, fsm := .done }

/-- The success outcome, `RES_STATUS ← 0`, FSM ← DONE (R201, R250). -/
def succeed (s : State) : State :=
  { s with res := { s.res with status := .ok }, fsm := .done }

/-- The host takes the result: DONE ends, nothing else changes (R221, R256). -/
def takeResult (s : State) : State := { s with fsm := .idle }

/-! ### The scheduler -/

/-- `Tick`: both counters fall by one and stop at 0, BACKOFF_CNT only in BACKOFF (R170). -/
def tick (s : State) : State :=
  { s with
    spaceCnt := s.spaceCnt - 1
    backoffCnt := match s.fsm with
      | .backoff => s.backoffCnt - 1
      | .idle => s.backoffCnt
      | .space => s.backoffCnt
      | .xmit => s.backoffCnt
      | .await => s.backoffCnt
      | .done => s.backoffCnt }

/-- The clock period before an event, if one has passed (R41, R170). -/
def tickIf (b : Bool) (s : State) : State := if b then tick s else s

/-- `SPACE_ARM` (R172). -/
def spaceArm (s : State) : State := { s with spaceCnt := nSpace }

/-- The start of a transmission, once SPACE_CNT is 0 (R174, R196). -/
def startTransmission (s : State) : State :=
  { s with txIdx := 0, txSum := 0, fsm := .xmit }

/-! ### Acceptance -/

/-- Acceptance of a command: CMD_OP, a fresh attempt counter, the result registers cleared (R192, R210). -/
def acceptCommand (op : BitVec 1) (s : State) : State :=
  { s with cmdOp := op, attempt := 0, res := Results.zero }

/-- Building a frame to send and leaving for SPACE (R193, R210); a payload that cannot be encoded is a MalformedFrameError and nothing is written (R110, R135). -/
def issueMessage (id : Byte) (f : Message) (s : State) : State :=
  if h : f.payload.length ≤ maxPayload then
    { s with tx := s.tx.load id f h, fsm := .space }
  else raise .malformed s

/-! ### ENCODE, byte-serial -/

/-- `W[i]`, the wire byte offered at index `i`; none beyond the frame (R136). -/
def wireByte (id : Byte) (f : Message) (sum : Word16) (i : Nat) : Option Byte :=
  if h : i < (logicalBytes id f).length then some (inv (logicalBytes id f)[i])
  else if i = hdrLen + f.payload.length then some (hiByte sum)
  else if i = hdrLen + 1 + f.payload.length then some (loByte sum)
  else none

/-- DECODE begins: RX_IDX, RX_SUM and RX_CK are cleared and the receive frame registers hold no defined value, here free values (R140, R45; log 7). -/
def beginDecode (s : State) : State :=
  { s with
    rx := freeRxFrame s.freeCnt
    rxIdx := 0
    rxSum := 0
    rxCk := 0
    freeCnt := s.freeCnt + 1 }

/-- The transport has taken the wire byte `w` at index TX_IDX (R136): it is on the TX stream, a header or payload byte joins TX_SUM, TX_IDX advances. -/
def byteTaken (f : Message) (w : Byte) (s : State) : State :=
  { s with
    txOut := s.txOut ++ [w]
    txSum := if s.txIdx.val < hdrLen + f.payload.length then s.txSum + w.setWidth 16 else s.txSum
    txIdx := s.txIdx + 1 }

/-- The write is complete: SPACE_ARM, DECODE begins, FSM ← AWAIT (R197). -/
def completeWrite (s : State) : State :=
  { beginDecode (spaceArm s) with fsm := .await }

/-- One moment of FSM = XMIT with the frame `id`, `f`: a reported failure ends the call (R198) and beats a transfer (R41); a ready transport takes the next byte (R136, R197); else the core waits (R268). -/
def sendByte (id : Byte) (f : Message) (s : State) : Host.Outcome State Fault Refusal :=
  if s.input.txErr then .next (raise .transport (spaceArm s))
  else if s.input.txReady then
    match wireByte id f s.txSum s.txIdx with
    | none => .fault .txIndexBeyondFrame
    | some w =>
      if s.txIdx.val = hdrLen + 1 + f.payload.length then .next (completeWrite (byteTaken f w s))
      else .next (byteTaken f w s)
  else .next s

/-! ### DECODE, byte-serial -/

/-- What one received byte leads to: more bytes are wanted, the call has ended with an error, the frame is in and its checksum good, or no rule applies. -/
inductive ByteResult where
  | more (s : State)
  | ended (s : State)
  | frameIn (s : State)
  | stop (r : Fault)
  deriving DecidableEq, Repr

/-- The register a header byte goes to, by its index (R141). -/
def storeHeader (i : Nat) (v : Byte) (r : RxFrame) : RxFrame :=
  match i with
  | 0 => { r with msgid := v }
  | 1 => { r with comb := v }
  | 2 => { r with node := v }
  | 3 => { r with src := { r.src with b0 := v } }
  | 4 => { r with src := { r.src with b1 := v } }
  | 5 => { r with src := { r.src with b2 := v } }
  | 6 => { r with dst := { r.dst with b0 := v } }
  | 7 => { r with dst := { r.dst with b1 := v } }
  | 8 => { r with dst := { r.dst with b2 := v } }
  | _ => r

/-- The sum and index of a header or payload byte (R141, R143). -/
def countByte (b : Byte) (s : State) : State :=
  { s with rxSum := s.rxSum + b.setWidth 16, rxIdx := s.rxIdx + 1 }

/-- A header byte, index 0 to 8 (R141). -/
def headerByte (b : Byte) (s : State) : State :=
  countByte b { s with rx := storeHeader s.rxIdx (inv b) s.rx }

/-- `LEN − 11` as a payload count; the 5-bit LEN keeps it within 20 (R97, R142). -/
def payloadCount (comb : Byte) : Fin 21 :=
  ⟨lenField comb - overhead, by have := lenField_lt comb; unfold overhead; omega⟩

/-- The length check, once header byte 8 is in (R142, R97). -/
def checkLength (s : State) : ByteResult :=
  if lenField s.rx.comb < overhead then .ended (raise .malformed s)
  else .more { s with rx := { s.rx with pcount := payloadCount s.rx.comb } }

/-- A payload byte, index 9 to 8 + RX_PCOUNT (R143). -/
def payloadByte (b : Byte) (s : State) : State :=
  countByte b { s with
    rx := { s.rx with payload := s.rx.payload.setIfInBounds (s.rxIdx.val - hdrLen) (inv b) } }

/-- The first checksum byte (R144). -/
def checksumHigh (b : Byte) (s : State) : State :=
  { s with rxCk := u16be b (loByte s.rxCk), rxIdx := s.rxIdx + 1 }

/-- The second checksum byte (R144). -/
def checksumLow (b : Byte) (s : State) : State :=
  { s with rxCk := u16be (hiByte s.rxCk) b, rxIdx := s.rxIdx + 1 }

/-- The comparison after the second checksum byte (R145, R146). -/
def compareChecksum (s : State) : ByteResult :=
  if s.rxCk = s.rxSum then .frameIn s
  else .ended (raise (.checksum s.rxSum s.rxCk) s)

/-- One byte of DECODE, by RX_IDX (R141 to R145). -/
def receiveByte (b : Byte) (s : State) : ByteResult :=
  if s.rxIdx.val < 8 then .more (headerByte b s)
  else if s.rxIdx.val = 8 then checkLength (headerByte b s)
  else if s.rxIdx.val < hdrLen + s.rx.pcount.val then .more (payloadByte b s)
  else if s.rxIdx.val = hdrLen + s.rx.pcount.val then .more (checksumHigh b s)
  else if s.rxIdx.val = hdrLen + 1 + s.rx.pcount.val then compareChecksum (checksumLow b s)
  else .stop .rxIndexBeyondFrame

/-! ### Response dispatch -/

/-- A message ID the running command does not expect: RES_MSGID and ProtocolError, no retry (R109, R205, R211). -/
def unexpectedMessage (id : Byte) (s : State) : State := raise (.protocol id) s

/-- A NACK that is to be retried: the backoff begins (R202). -/
def enterBackoff (s : State) : State := { s with backoffCnt := nBackoff, fsm := .backoff }

/-- A NACK in answer to MOVE: its code is kept, then retry or give up (R202). -/
def answerNack (code : Byte) (s : State) : State :=
  let s' := { s with res := { s.res with errcode := code } }
  if s.attempt = 2 then raise (.maxRetries code) s' else enterBackoff s'

/-- A position report in answer to QUERY: the result, or MalformedFrameError for a short one (R212, R213, R214). -/
def answerReport (payload : List Byte) (s : State) : State :=
  match positionReport payload with
  | some r => succeed { s with res := { s.res with pos := callerPosition r.percentageClosed } }
  | none => raise .malformed s

/-- The end of the backoff: ATTEMPT + 1, FSM ← SPACE (R204); the value 3 is never written (R24, U11). -/
def endBackoff (s : State) : Host.Outcome State Fault Refusal :=
  if h : s.attempt.val + 1 < 3 then .next { s with attempt := ⟨s.attempt.val + 1, h⟩, fsm := .space }
  else .refused .attemptBeyondTwo

/-! ### Reset and inputs -/

/-- Reset at run time: every register as after power-on, MOTOR_ADDR from the strap sampled now (R44, R281); bytes sent stay sent (log 21). -/
def resetRegisters (cfg : BitVec 24) (s : State) : State :=
  { State.reset with
    motorAddr := addrOfStrap cfg
    txOut := s.txOut
    env := s.env
    freeCnt := s.freeCnt }

/-- The present inputs are over. -/
def dropInput (s : State) : State := { s with env := s.env.tail }

/-- A function of the next state, faults and refusals kept. -/
def onNext (f : State → State) : Host.Outcome State Fault Refusal → Host.Outcome State Fault Refusal
  | .next s => .next (f s)
  | .fault r => .fault r
  | .refused r => .refused r

end Sys2Proof.Machine
end

