-- ==== Sys2Proof/Machine/HostCommands.lean ====
section
/-! DEFINITION. The meanings of the two host commands (42_engine.md R192 to R195, R210). A command is accepted only in FSM = IDLE; elsewhere it is simply not accepted, no error and no queue (R224). -/

namespace Sys2Proof.Machine

/-- SET_POSITION p (R192, R193, R194): acceptance, validation with no I/O on failure, and expansion to MOVE (R115). -/
def execSetPosition (pos : Word16) (s : State) : Host.Outcome State Fault Refusal :=
  if s.fsm = .idle then
    if positionLegal pos then
      .next (issueMessage idMove (moveMessage s.motorAddr (deviceTarget pos)) (acceptCommand 0 s))
    else .next (raise .validation (acceptCommand 0 s))
  else .next s

/-- GET_POSITION (R195, R210): acceptance and expansion to QUERY (R115). -/
def execGetPosition (s : State) : Host.Outcome State Fault Refusal :=
  if s.fsm = .idle then
    .next (issueMessage idQuery (queryMessage s.motorAddr) (acceptCommand 1 s))
  else .next s

end Sys2Proof.Machine
end

