-- ==== Sys2Proof/Machine/Messages.lean ====
section
/-! DEFINITION. The meanings of the five wire messages (30_encoding.md R106), by the FSM state that looks at a message (42_engine.md R220; log 12): MOVE and QUERY are built in IDLE as part of accepting their command, handed over byte by byte in XMIT, and unexpected in AWAIT; POSREPORT, NACK and ACK are dispatched on in AWAIT once DECODE has completed. Everywhere else a message leaves the state as it is. -/

namespace Sys2Proof.Machine

/-- MOVE, core to device (R101, R193, R136, R197, R198); received, a ProtocolError for either command (R109, R205, R211). -/
def execMove (f : Message) (s : State) : Host.Outcome State Fault Refusal :=
  match s.fsm with
  | .idle => .next (issueMessage idMove f s)
  | .space => .next s
  | .xmit => sendByte idMove f s
  | .await => .next (unexpectedMessage idMove s)
  | .backoff => .next s
  | .done => .next s

/-- QUERY, core to device (R102, R210, R136, R197, R198); received, a ProtocolError for either command (R109, R205, R211). -/
def execQuery (f : Message) (s : State) : Host.Outcome State Fault Refusal :=
  match s.fsm with
  | .idle => .next (issueMessage idQuery f s)
  | .space => .next s
  | .xmit => sendByte idQuery f s
  | .await => .next (unexpectedMessage idQuery s)
  | .backoff => .next s
  | .done => .next s

/-- POSREPORT, device to core: the answer GET_POSITION expects (R211 to R214), unexpected by SET_POSITION (R205). -/
def execPosreport (f : Message) (s : State) : Host.Outcome State Fault Refusal :=
  match s.fsm with
  | .idle => .next s
  | .space => .next s
  | .xmit => .next s
  | .await =>
    if s.cmdOp = 1 then .next (answerReport f.payload s)
    else .next (unexpectedMessage idPosreport s)
  | .backoff => .next s
  | .done => .next s

/-- NACK, device to core: retry or MaxRetriesExceededError for SET_POSITION (R202), unexpected by GET_POSITION (R211). -/
def execNack (f : Message) (s : State) : Host.Outcome State Fault Refusal :=
  match s.fsm with
  | .idle => .next s
  | .space => .next s
  | .xmit => .next s
  | .await =>
    if s.cmdOp = 0 then .next (answerNack (nackCode f.payload) s)
    else .next (unexpectedMessage idNack s)
  | .backoff => .next s
  | .done => .next s

/-- ACK, device to core: success for SET_POSITION, everything in the frame but its ID ignored (R104, R201), unexpected by GET_POSITION (R211). -/
def execAck (_f : Message) (s : State) : Host.Outcome State Fault Refusal :=
  match s.fsm with
  | .idle => .next s
  | .space => .next s
  | .xmit => .next s
  | .await =>
    if s.cmdOp = 0 then .next (succeed s)
    else .next (unexpectedMessage idAck s)
  | .backoff => .next s
  | .done => .next s

end Sys2Proof.Machine
end

