-- ==== Sys2Proof/Machine/Dispatch.lean ====
section
/-! DEFINITION. The one match from instructions to meanings: one arm per row of spec/opcode_table.json. -/

namespace Sys2Proof.Machine

def exec (i : Instr) (s : State) : Host.Outcome State Fault Refusal :=
  match i with
  | .setPosition pos => Sys2Proof.Machine.execSetPosition pos s
  | .getPosition => Sys2Proof.Machine.execGetPosition s
  | .move f => Sys2Proof.Machine.execMove f s
  | .query f => Sys2Proof.Machine.execQuery f s
  | .posreport f => Sys2Proof.Machine.execPosreport f s
  | .nack f => Sys2Proof.Machine.execNack f s
  | .ack f => Sys2Proof.Machine.execAck f s

end Sys2Proof.Machine
end

