-- ==== Sys2Proof/Machine/Sequencer.lean ====
section
/-! DEFINITION. What one step does around `exec`: the timer-driven transitions (42_engine.md R196, R204), reset and priority at an edge (60_exceptions.md R255), the Tick before the event (41_scheduler.md R170), which input each FSM state looks at (R252), and where the next instruction comes from: the command port in IDLE, the transmit registers in XMIT, the receive registers when DECODE completes in AWAIT (log 10, log 12). -/

namespace Sys2Proof.Machine

/-- One moment of FSM = XMIT: the message in the transmit registers runs (MOVE or QUERY); a frame with any other ID, which the engine never builds (R106), is handed over by the same rule (R136). -/
def transmitEvent (s : State) : Host.Outcome State Fault Refusal :=
  if s.tx.msgid = idMove then exec (.move s.tx.message) s
  else if s.tx.msgid = idQuery then exec (.query s.tx.message) s
  else sendByte s.tx.msgid s.tx.message s

/-- The response dispatch, at the edge of the second checksum byte (R200, R206, R211): the message in the receive registers runs; an ID in no row of the message map is a ProtocolError (R109). -/
def dispatchResponse (s : State) : Host.Outcome State Fault Refusal :=
  match messageOf s.rx.msgid s.rx.message with
  | .ok i => exec i s
  | .error _ => .next (unexpectedMessage s.rx.msgid s)

/-- What follows a received byte (R141 to R146, R199). -/
def afterByte : ByteResult → Host.Outcome State Fault Refusal
  | .more s => .next s
  | .ended s => .next s
  | .frameIn s => dispatchResponse s
  | .stop r => .fault r

/-- One moment of FSM = AWAIT: a reported failure ends the call (R199) and beats a transfer (R41); a delivered byte goes to DECODE; else the core waits (R268). -/
def awaitEvent (s : State) : Host.Outcome State Fault Refusal :=
  if s.input.rxErr then .next (raise .transport s)
  else if s.input.rxValid then afterByte (receiveByte s.input.rxData s)
  else .next s

/-- The event of the present moment: each state looks at its own inputs and ignores the others (R220, R252). -/
def portEvent (s : State) : Host.Outcome State Fault Refusal :=
  match s.fsm with
  | .idle =>
    if s.input.cmdValid then exec (decodeHostCmd s.input.cmdOp s.input.cmdPos) s else .next s
  | .space => .next s
  | .xmit => transmitEvent s
  | .await => awaitEvent s
  | .backoff => .next s
  | .done => if s.input.resReady then .next (takeResult s) else .next s

/-- One moment: reset beats everything (R255); else the Tick, then the event (R170). -/
def moment (s : State) : Host.Outcome State Fault Refusal :=
  if s.input.rst then .next (resetRegisters s.input.cfgAddr s)
  else portEvent (tickIf s.input.tick s)

/-- A timer has run out in the state that waits for it: a transition of the core's own is due (R174, R196, R203, R204). -/
def timerExpired (s : State) : Bool :=
  match s.fsm with
  | .idle => false
  | .space => decide (s.spaceCnt = 0)
  | .xmit => false
  | .await => false
  | .backoff => decide (s.backoffCnt = 0)
  | .done => false

/-- The due transition happens now, with no further Tick and no input, unless the present moment lets it lag: the number of clock periods before it is free (R306, R177; log 2). -/
def timerDone (s : State) : Bool := timerExpired s && !s.input.lag

/-- The transition of a timer that has run out (R196, R204). -/
def timerEvent (s : State) : Host.Outcome State Fault Refusal :=
  match s.fsm with
  | .space => .next (startTransmission s)
  | .backoff => endBackoff s
  | .idle => .next s
  | .xmit => .next s
  | .await => .next s
  | .done => .next s

/-- One step: a timer transition if one is due and does not lag, else one moment, whose inputs are then over. -/
def sequencerStep (s : State) : Host.Outcome State Fault Refusal :=
  if timerDone s then timerEvent s else onNext dropInput (moment s)

/-! ### An instruction as the next one to run (log 10) -/

/-- The state in which the next moment offers a host command: FSM = IDLE and the command on its port. -/
def offerCommand (op : BitVec 1) (pos : Word16) (s : State) : State :=
  { s with
    fsm := .idle
    env := { quietInputs with tick := false, cmdValid := true, cmdOp := op, cmdPos := pos } :: s.env }

/-- The state in which the next moment takes the first wire byte of a frame of the core. -/
def placeTransmit (id : Byte) (f : Message) (s : State) : State :=
  { s with
    fsm := .xmit
    tx := if h : f.payload.length ≤ maxPayload then s.tx.load id f h else s.tx
    txIdx := 0
    txSum := 0
    env := { quietInputs with tick := false, txReady := true } :: s.env }

/-- The state in which the next moment delivers the last byte of a frame of the device, in answer to command `op`. -/
def placeReceive (op : BitVec 1) (id : Byte) (f : Message) (s : State) : State :=
  let sum := checksum (bodyBytes id f)
  { s with
    fsm := .await
    cmdOp := op
    rx := ⟨id, f.comb, f.node, f.src, f.dst, payloadCount f.comb, overwrite s.rx.payload f.payload⟩
    rxIdx := Fin.ofNat 32 (hdrLen + 1 + f.payload.length)
    rxSum := sum
    rxCk := u16be (hiByte sum) 0
    env := { quietInputs with tick := false, rxValid := true, rxData := loByte sum } :: s.env }

/-- The state whose next step runs a given instruction. -/
def placeInstr (i : Instr) (s : State) : State :=
  match i with
  | .setPosition pos => offerCommand 0 pos s
  | .getPosition => offerCommand 1 0 s
  | .move f => placeTransmit idMove f s
  | .query f => placeTransmit idQuery f s
  | .posreport f => placeReceive 1 idPosreport f s
  | .nack f => placeReceive 0 idNack f s
  | .ack f => placeReceive 0 idAck f s

/-- The state whose next step runs the instruction of a table word; unchanged where the word gives none. -/
def placeTableWord (nbits w : Nat) (s : State) : State :=
  match decodeTableWord nbits w with
  | some i => placeInstr i s
  | none => s

end Sys2Proof.Machine
end

