-- ==== Sys2Proof/Machine/Step.lean ====
section
/-! DEFINITION. The step of the core and the state whose next step runs a given table word. Both only call Machine/Sequencer.lean. -/

namespace Sys2Proof.Machine

/-- One step of the core. -/
def step (s : State) : Host.Outcome State Fault Refusal := sequencerStep s

/-- `s` with the instruction of a table word as the one its next step runs (log 10, log 11). -/
def State.withFetchWord (s : State) (nbits w : Nat) : State := placeTableWord nbits w s

end Sys2Proof.Machine
end

