-- ==== Sys2Proof/Machine/Ports.lean ====
section
/-! DEFINITION. The output ports of 10_state.md R40: functions of the registers. -/

namespace Sys2Proof.Machine

/-- The output ports (R40). `txData` is none where R136 gives no wire byte (log 15). -/
structure Outputs where
  cmdReady   : Bool
  resValid   : Bool
  resStatus  : BitVec 3
  resPos     : Word16
  resErrcode : Byte
  resMsgid   : Byte
  resCkExp   : Word16
  resCkRcv   : Word16
  rxf        : RxFrame
  txValid    : Bool
  txData     : Option Byte
  rxReady    : Bool
  deriving DecidableEq, Repr

/-- What the output ports show in a state (R40). -/
def State.outputs (s : State) : Outputs where
  cmdReady   := decide (s.fsm = .idle)
  resValid   := decide (s.fsm = .done)
  resStatus  := s.res.status.code
  resPos     := s.res.pos
  resErrcode := s.res.errcode
  resMsgid   := s.res.msgid
  resCkExp   := s.res.ckExp
  resCkRcv   := s.res.ckRcv
  rxf        := s.rx
  txValid    := decide (s.fsm = .xmit)
  txData     := wireByte s.tx.msgid s.tx.message s.txSum s.txIdx
  rxReady    := decide (s.fsm = .await)

end Sys2Proof.Machine
end

