-- ==== Sys2Proof/Safety.lean ====
section
/-! DEFINITION. What counts as a safe run, in the terms the statements use: runs, the Ticks and frame writes counted along a run, the transition table of 42_engine.md R220, and the invariants of the state. -/

namespace Sys2Proof.Machine

/-! ### Runs -/

/-- `k` steps, stopping at the first fault or refusal. -/
def runFor : Nat → State → Host.Outcome State Fault Refusal
  | 0, s => .next s
  | k + 1, s =>
    match step s with
    | .next t => runFor k t
    | .fault r => .fault r
    | .refused r => .refused r

/-- The Ticks in one step: 1 when a moment with a passed clock period is consumed, 0 for a timer transition that happens and for a reset edge (R170, R255). -/
def stepTicks (s : State) : Nat :=
  if timerDone s then 0
  else if s.input.rst then 0
  else if s.input.tick then 1
  else 0

/-- The Ticks in `k` steps. -/
def ticksIn : Nat → State → Nat
  | 0, _ => 0
  | k + 1, s =>
    match step s with
    | .next t => stepTicks s + ticksIn k t
    | .fault _ => 0
    | .refused _ => 0

/-- A step completes a frame write: it goes from XMIT to AWAIT (R197). -/
def completesWrite (s t : State) : Bool := decide (s.fsm = .xmit ∧ t.fsm = .await)

/-- A step ends the reading of a response: it leaves AWAIT (R199 to R214). -/
def endsResponse (s t : State) : Bool := decide (s.fsm = .await ∧ t.fsm ≠ .await)

/-- A step begins a backoff (R202). -/
def beginsBackoff (s t : State) : Bool := decide (s.fsm = .await ∧ t.fsm = .backoff)

/-- A call is in progress: a command has been accepted and its result is not there yet (R16, R30). -/
def inCall : Fsm → Bool
  | .idle => false
  | .space => true
  | .xmit => true
  | .await => true
  | .backoff => true
  | .done => false

/-- How many of `k` steps are of a kind. -/
def countSteps (p : State → State → Bool) : Nat → State → Nat
  | 0, _ => 0
  | k + 1, s =>
    match step s with
    | .next t => (if p s t then 1 else 0) + countSteps p k t
    | .fault _ => 0
    | .refused _ => 0

/-- Every state met in `k` steps, the last one apart, satisfies `p`. -/
def allAlong (p : State → Bool) : Nat → State → Bool
  | 0, _ => true
  | k + 1, s =>
    p s && (match step s with
    | .next t => allAlong p k t
    | .fault _ => true
    | .refused _ => true)

/-- An input that answers whatever the core may wait for, no reset, and no lagging transition: the assumption of R225 on the transport and on the clock, and that of R306 on the core's own promptness. -/
def Inputs.answers (e : Inputs) : Bool :=
  !e.rst && e.tick && !e.lag && (e.txReady || e.txErr) && (e.rxValid || e.rxErr)

/-- The steps within which a call of the model with answering inputs ends: three attempts (R207), each a spacing wait, at most 31 bytes out, at most 31 bytes in, and a backoff. The number is the model's choice and no rule of the spec (R177 and R306 give no upper bound): it counts steps in which no transition of the core's own lags, the assumption of fairness R306 speaks of (`Inputs.answers`; log 2). -/
def callBound : Nat := 3 * (nSpace + nBackoff + 64)

/-- A step is a reset edge (R44, R255). -/
def isResetStep (s : State) : Bool := !timerDone s && s.input.rst

/-- Two moments show the same on what a sequencer state looks at: the clock, reset and strap always, and the inputs of the one channel the state waits on (R252), or the free delay of the transition it waits for (log 2). -/
def sameInputsFor (q : Fsm) (e e' : Inputs) : Prop :=
  e.tick = e'.tick ∧ e.rst = e'.rst ∧ e.cfgAddr = e'.cfgAddr ∧
  match q with
  | .idle => e.cmdValid = e'.cmdValid ∧ e.cmdOp = e'.cmdOp ∧ e.cmdPos = e'.cmdPos
  | .space => e.lag = e'.lag
  | .xmit => e.txReady = e'.txReady ∧ e.txErr = e'.txErr
  | .await => e.rxValid = e'.rxValid ∧ e.rxData = e'.rxData ∧ e.rxErr = e'.rxErr
  | .backoff => e.lag = e'.lag
  | .done => e.resReady = e'.resReady

/-! ### The transition table -/

/-- No event of R220 is at the ports: what the present sequencer state waits for is not there. -/
def noEvent (s : State) : Bool :=
  match s.fsm with
  | .idle => !s.input.cmdValid
  | .space => true
  | .xmit => !s.input.txReady && !s.input.txErr
  | .await => !s.input.rxValid && !s.input.rxErr
  | .backoff => true
  | .done => !s.input.resReady

/-- The rows of R220 for a good frame: the state with the frame in, the state after the dispatch. -/
inductive DispatchRow : State → State → Prop where
  /-- `CMD_OP = 0`, ID 0x7F (R201) -/
  | ack (s : State) (hc : s.cmdOp = 0) (hm : s.rx.msgid = 0x7F) :
      DispatchRow s { s with fsm := .done, res := { s.res with status := .ok } }
  /-- `CMD_OP = 0`, ID 0x6F, ATTEMPT below 2 (R202) -/
  | nackRetry (s : State) (hc : s.cmdOp = 0) (hm : s.rx.msgid = 0x6F) (ha : s.attempt.val < 2) :
      DispatchRow s { s with
        fsm := .backoff, backoffCnt := nBackoff
        res := { s.res with errcode := if s.rx.pcount.val = 0 then 0xFF else s.rx.payload[0] } }
  /-- `CMD_OP = 0`, ID 0x6F, ATTEMPT = 2 (R202) -/
  | nackLast (s : State) (hc : s.cmdOp = 0) (hm : s.rx.msgid = 0x6F) (ha : s.attempt.val = 2) :
      DispatchRow s { s with
        fsm := .done
        res := { s.res with
          status := .maxRetriesExceededError
          errcode := if s.rx.pcount.val = 0 then 0xFF else s.rx.payload[0] } }
  /-- `CMD_OP = 0`, any other ID (R205) -/
  | setOther (s : State) (hc : s.cmdOp = 0) (h1 : s.rx.msgid ≠ 0x7F) (h2 : s.rx.msgid ≠ 0x6F) :
      DispatchRow s { s with
        fsm := .done, res := { s.res with status := .protocolError, msgid := s.rx.msgid } }
  /-- `CMD_OP = 1`, ID other than 0x0D (R211) -/
  | getOther (s : State) (hc : s.cmdOp = 1) (h1 : s.rx.msgid ≠ 0x0D) :
      DispatchRow s { s with
        fsm := .done, res := { s.res with status := .protocolError, msgid := s.rx.msgid } }
  /-- `CMD_OP = 1`, ID 0x0D, fewer than 5 payload bytes (R213) -/
  | shortReport (s : State) (hc : s.cmdOp = 1) (hm : s.rx.msgid = 0x0D) (hp : s.rx.pcount.val < 5) :
      DispatchRow s { s with fsm := .done, res := { s.res with status := .malformedFrameError } }
  /-- `CMD_OP = 1`, ID 0x0D, 5 payload bytes or more (R214) -/
  | report (s : State) (hc : s.cmdOp = 1) (hm : s.rx.msgid = 0x0D) (hp : 5 ≤ s.rx.pcount.val) :
      DispatchRow s { s with
        fsm := .done
        res := { s.res with
          status := .ok
          pos := BitVec.ofInt 16 (100 - (s.rx.payload[2].toNat : Int)) } }

/-- The rows of R220 that an input causes, one constructor a row: the state before the event (its Tick taken), the state after. The rows for SPACE and BACKOFF and for reset are not here: they are no events of a port. -/
inductive Transition : State → State → Prop where
  /-- SET_POSITION accepted, p outside 0 to 100 (R192) -/
  | setInvalid (s : State) (hf : s.fsm = .idle) (hv : s.input.cmdValid = true) (ho : s.input.cmdOp = 0)
      (hp : positionLegal s.input.cmdPos = false) :
      Transition s { s with
        cmdOp := 0, attempt := 0, fsm := .done
        res := { Results.zero with status := .validationError } }
  /-- SET_POSITION accepted, p in 0 to 100 (R192, R193) -/
  | setValid (s : State) (t : TxFrame) (hf : s.fsm = .idle) (hv : s.input.cmdValid = true)
      (ho : s.input.cmdOp = 0) (hp : positionLegal s.input.cmdPos = true)
      (hm : t.msgid = idMove)
      (ht : t.message.isMove s.motorAddr (deviceTarget s.input.cmdPos) = true) :
      Transition s { s with cmdOp := 0, attempt := 0, fsm := .space, res := Results.zero, tx := t }
  /-- GET_POSITION accepted (R210) -/
  | getAccepted (s : State) (t : TxFrame) (hf : s.fsm = .idle) (hv : s.input.cmdValid = true)
      (ho : s.input.cmdOp = 1) (hm : t.msgid = idQuery) (ht : t.message.isQuery s.motorAddr = true) :
      Transition s { s with cmdOp := 1, attempt := 0, fsm := .space, res := Results.zero, tx := t }
  /-- a header or payload byte taken (R136) -/
  | bodyByteTaken (s : State) (hf : s.fsm = .xmit) (he : s.input.txErr = false)
      (hr : s.input.txReady = true)
      (hi : s.txIdx.val < (bodyBytes s.tx.msgid s.tx.message).length) :
      Transition s { s with
        txOut := s.txOut ++ [(bodyBytes s.tx.msgid s.tx.message)[s.txIdx.val]]
        txSum := s.txSum + ((bodyBytes s.tx.msgid s.tx.message)[s.txIdx.val]).setWidth 16
        txIdx := s.txIdx + 1 }
  /-- the first checksum byte taken (R136) -/
  | checksumByteTaken (s : State) (hf : s.fsm = .xmit) (he : s.input.txErr = false)
      (hr : s.input.txReady = true) (hi : s.txIdx.val = 9 + s.tx.pcount.val) :
      Transition s { s with txOut := s.txOut ++ [hiByte s.txSum], txIdx := s.txIdx + 1 }
  /-- the last byte taken: SPACE_ARM, DECODE begins (R197, R140) -/
  | writeComplete (s : State) (r : RxFrame) (hf : s.fsm = .xmit) (he : s.input.txErr = false)
      (hr : s.input.txReady = true) (hi : s.txIdx.val = 10 + s.tx.pcount.val) :
      Transition s { s with
        txOut := s.txOut ++ [loByte s.txSum], txIdx := s.txIdx + 1
        spaceCnt := nSpace, fsm := .await
        rx := r, rxIdx := 0, rxSum := 0, rxCk := 0, freeCnt := s.freeCnt + 1 }
  /-- write failure (R198) -/
  | writeFailure (s : State) (hf : s.fsm = .xmit) (he : s.input.txErr = true) :
      Transition s { s with
        spaceCnt := nSpace, fsm := .done, res := { s.res with status := .transportError } }
  /-- a byte read, the frame not finished: the byte is stored by R141 to R144 -/
  | byteRead (s : State) (u : State) (hf : s.fsm = .await) (he : s.input.rxErr = false)
      (hr : s.input.rxValid = true) (hu : receiveByte s.input.rxData s = .more u) : Transition s u
  /-- read failure (R199) -/
  | readFailure (s : State) (hf : s.fsm = .await) (he : s.input.rxErr = true) :
      Transition s { s with fsm := .done, res := { s.res with status := .transportError } }
  /-- the header in, LEN below 11 (R142) -/
  | badLength (s : State) (hf : s.fsm = .await) (he : s.input.rxErr = false)
      (hr : s.input.rxValid = true) (hi : s.rxIdx.val = 8) (hl : lenField s.rx.comb < 11) :
      Transition s { s with
        rx := { s.rx with dst := { s.rx.dst with b2 := inv s.input.rxData } }
        rxSum := s.rxSum + s.input.rxData.setWidth 16, rxIdx := s.rxIdx + 1
        fsm := .done, res := { s.res with status := .malformedFrameError } }
  /-- the last byte read, checksums differ (R145) -/
  | badChecksum (s : State) (u : State) (hf : s.fsm = .await) (he : s.input.rxErr = false)
      (hr : s.input.rxValid = true) (hi : s.rxIdx.val = 10 + s.rx.pcount.val)
      (h9 : 9 ≤ s.rxIdx.val)
      (hu : u = { s with rxCk := u16be (hiByte s.rxCk) s.input.rxData, rxIdx := s.rxIdx + 1 })
      (hc : u.rxCk ≠ u.rxSum) :
      Transition s { u with
        fsm := .done
        res := { u.res with status := .checksumError, ckExp := u.rxSum, ckRcv := u.rxCk } }
  /-- the last byte read, frame good: one of the dispatch rows -/
  | frameGood (s : State) (u v : State) (hf : s.fsm = .await) (he : s.input.rxErr = false)
      (hr : s.input.rxValid = true) (hi : s.rxIdx.val = 10 + s.rx.pcount.val)
      (h9 : 9 ≤ s.rxIdx.val)
      (hu : u = { s with rxCk := u16be (hiByte s.rxCk) s.input.rxData, rxIdx := s.rxIdx + 1 })
      (hc : u.rxCk = u.rxSum) (hd : DispatchRow u v) : Transition s v
  /-- the result taken (R221) -/
  | resultTaken (s : State) (hf : s.fsm = .done) (hr : s.input.resReady = true) :
      Transition s { s with fsm := .idle }
  /-- no listed event: the state stays as it is -/
  | stays (s : State) (h : noEvent s = true) : Transition s s

/-! ### Invariants -/

/-- The counters and indexes are in their ranges: SPACE_CNT (R23), BACKOFF_CNT (R26), ATTEMPT (R24, R204, D33), TX_IDX and RX_IDX (R28, R31, R142). -/
structure ControlInv (s : State) : Prop where
  space   : s.spaceCnt ≤ nSpace
  backoff : s.backoffCnt ≤ nBackoff
  retry   : s.fsm = .backoff → s.attempt.val ≤ 1 ∧ s.cmdOp = 0
  single  : s.cmdOp = 1 → s.attempt = 0
  txIndex : s.fsm = .xmit → s.txIdx.val ≤ hdrLen + 1 + s.tx.pcount.val
  rxIndex : s.fsm = .await → s.rxIdx.val < hdrLen ∨
    (overhead ≤ lenField s.rx.comb ∧ s.rx.pcount = payloadCount s.rx.comb ∧
      s.rxIdx.val ≤ hdrLen + 1 + s.rx.pcount.val)

/-- While a call is in progress the transmit registers hold the frame of that call: the MOVE of a legal position for SET_POSITION, the QUERY for GET_POSITION, for the motor address of this core (R27, R79, R193, R210). -/
def CallFrameInv (s : State) : Prop :=
  inCall s.fsm = true →
    (s.cmdOp = 0 ∧ s.tx.msgid = idMove ∧
      ∃ pos, positionLegal pos = true ∧ s.tx.message.isMove s.motorAddr (deviceTarget pos) = true) ∨
    (s.cmdOp = 1 ∧ s.tx.msgid = idQuery ∧ s.tx.message.isQuery s.motorAddr = true)

/-- The running sums: TX_SUM is the checksum of the wire bytes of header and payload handed over so far, RX_SUM of those consumed so far (R28, R31). -/
structure SumInv (s : State) : Prop where
  txSum : s.fsm = .xmit →
    s.txSum = checksum ((bodyBytes s.tx.msgid s.tx.message).take s.txIdx.val)
  rxSum : s.fsm = .await →
    s.rxSum = checksum ((bodyBytes s.rx.msgid s.rx.message).take s.rxIdx.val)

/-- The result registers: cleared during a call but for the error code of a NACK (R34, R192, R202); RES_POS is a position only after a GET_POSITION that ended OK and is 0 otherwise, and lies in −155 to 100 (R33, R251); GET_POSITION never ends in ValidationError or MaxRetriesExceededError (R247). -/
structure ResultInv (s : State) : Prop where
  cleared  : inCall s.fsm = true → s.res = { Results.zero with errcode := s.res.errcode }
  noPos    : s.fsm = .done → s.res.status ≠ .ok ∨ s.cmdOp = 0 → s.res.pos = 0
  range    : -155 ≤ s.res.pos.toInt ∧ s.res.pos.toInt ≤ 100
  outcomes : s.fsm = .done → s.cmdOp = 1 →
    s.res.status ≠ .validationError ∧ s.res.status ≠ .maxRetriesExceededError

end Sys2Proof.Machine
end

