-- ==== Sys2Proof/Certificates/Slice0/Obligations.lean ====
section
/-! DEFINITION. The statements about the core, one `def Obligations.<Name> : Prop` each; OBLIGATIONS.json lists them with their rules. In every statement `{ s with … }` is the whole next state, so what it does not name is unchanged. -/

open Sys2Proof Sys2Proof.Machine

/-! ### Codec -/

/-- R130, R131: the complement is its own inverse, and is `255 − b`. -/
def Obligations.InvIsItsOwnInverse : Prop :=
  ∀ b : Byte, inv (inv b) = b ∧ (inv b).toNat = 255 - b.toNat ∧ inv b = b ^^^ 0xFF

/-- R133: the sum of the wire bytes of header and payload of a frame ENCODE builds lies in 96 to 7364, both ends are reached, and no 29 bytes, the most any length field lets DECODE sum, add up to more than 7395: the reduction modulo 2^16 changes nothing. -/
def Obligations.ChecksumNeverWraps : Prop :=
  (∀ (id : Byte) (ack : Bool) (node : Byte) (src dst : Addr) (p : List Byte), p.length ≤ 20 →
    96 ≤ ((bodyBytes id (messageOfOperands ack node src dst p)).map BitVec.toNat).sum ∧
    ((bodyBytes id (messageOfOperands ack node src dst p)).map BitVec.toNat).sum ≤ 7364 ∧
    (bodyBytes id (messageOfOperands ack node src dst p)).length ≤ 29) ∧
  (∀ ack, (inv (combinedByte ack 0)).toNat ≤ 0xF4) ∧ inv (combinedByte false 20) = 0xE0 ∧
  (∀ c : Byte, 9 + (lenField c - 11) ≤ 29) ∧
  (∀ w : List Byte, w.length ≤ 29 →
    (w.map BitVec.toNat).sum ≤ 7395 ∧ (checksum w).toNat = (w.map BitVec.toNat).sum) ∧
  ((bodyBytes 0xFF (messageOfOperands true 0xFF ⟨0xFF, 0xFF, 0xFF⟩ ⟨0xFF, 0xFF, 0xFF⟩
      (List.replicate 20 0xFF))).map BitVec.toNat).sum = 96 ∧
  ((bodyBytes 0 (messageOfOperands false 0 ⟨0, 0, 0⟩ ⟨0, 0, 0⟩
      (List.replicate 20 0))).map BitVec.toNat).sum = 7364

/-- R110: LEN 0 to 10 is malformed on receive whatever follows the header; a payload above 20 bytes is malformed on transmit; the engine's own counts are 4 and 0. -/
def Obligations.LengthErrors : Prop :=
  (∀ (m c n s0 s1 s2 d0 d1 d2 : Byte) (rest : List RxAnswer), lenField (inv c) < 11 →
    decodeStream ([m, c, n, s0, s1, s2, d0, d1, d2].map RxAnswer.byte ++ rest) = .error .malformed) ∧
  (∀ (id : Byte) (ack : Bool) (node : Byte) (src dst : Addr) (p : List Byte), 20 < p.length →
    encodeFrame id ack node src dst p = .error .malformed) ∧
  (∀ (a : Addr) (t : Word16), (moveMessage a t).payload.length = 4 ∧ (queryMessage a).payload.length = 0)

/-- R148: DECODE of what ENCODE wrote gives every operand back and consumes exactly `11 + n` bytes; conversely, encoding a decoded frame again gives the bytes it came from exactly when its reserved bits are clear. -/
def Obligations.FrameRoundTrip : Prop :=
  (∀ (id : Byte) (ack : Bool) (node : Byte) (src dst : Addr) (p : List Byte) (rest : List RxAnswer),
    p.length ≤ 20 → ∃ w, encodeFrame id ack node src dst p = .ok w ∧ w.length = 11 + p.length ∧
      decodeStream (w.map RxAnswer.byte ++ rest) =
        .ok (⟨id, ⟨(if ack then 0x80 else 0) ||| BitVec.ofNat 8 (11 + p.length), node, src, dst, p⟩⟩, rest)) ∧
  (∀ (as rest : List RxAnswer) (fr : Frame), decodeStream as = .ok (fr, rest) →
    ((∃ w, encodeFrame fr.id (ackField fr.msg.comb) fr.msg.node fr.msg.src fr.msg.dst fr.msg.payload = .ok w ∧
        as = w.map RxAnswer.byte ++ rest) ↔ fr.msg.comb.extractLsb' 5 2 = 0))

/-- R92, R112, R106: the wire image of any frame whose LEN fits its payload passes DECODE with every field as it stands and decodes, by its message ID alone, to the instruction of the message map, or is rejected by the name of its ID. -/
def Obligations.WireImageDecodesByMessageId : Prop :=
  ∀ (id : Byte) (f : Message), f.wf = true →
    decodeStream ((wireImage id f).map RxAnswer.byte) = .ok (⟨id, f⟩, []) ∧
    decode (.frame (wireImage id f)) = messageOf id f ∧
    (decode (.frame (wireImage id f)) = .error (.unknownMessage id) ↔
      id ≠ 0x03 ∧ id ≠ 0x0C ∧ id ≠ 0x0D ∧ id ≠ 0x6F ∧ id ≠ 0x7F)

/-- R91, R106, R107: decoding the encoding of a well-formed instruction gives it back, for every operand. -/
def Obligations.DecodeEncodeRoundTrip : Prop :=
  ∀ i : Instr, i.wf = true → decode (encode i) = .ok i

/-- R147: the three decode errors, each at its own point of the sequential read; with all bytes in and a matching checksum there is none. -/
def Obligations.DecodeErrorsInOrder : Prop :=
  ∀ (h p : List Byte) (rest : List RxAnswer),
    (h.length < 9 → decodeStream (h.map RxAnswer.byte ++ RxAnswer.failure :: rest) = .error .transport) ∧
    (h.length = 9 → lenField (inv (h.getD 1 0)) < 11 →
      decodeStream (h.map RxAnswer.byte ++ rest) = .error .malformed) ∧
    (h.length = 9 → 11 ≤ lenField (inv (h.getD 1 0)) → p.length + 9 < lenField (inv (h.getD 1 0)) →
      decodeStream ((h ++ p).map RxAnswer.byte ++ RxAnswer.failure :: rest) = .error .transport) ∧
    (h.length = 9 → p.length + 11 = lenField (inv (h.getD 1 0)) → ∀ hi lo : Byte,
      (u16be hi lo ≠ checksum (h ++ p) →
        decodeStream ((h ++ p ++ [hi, lo]).map RxAnswer.byte ++ rest) =
          .error (.checksum (checksum (h ++ p)) (u16be hi lo))) ∧
      (u16be hi lo = checksum (h ++ p) →
        ∃ fr, decodeStream ((h ++ p ++ [hi, lo]).map RxAnswer.byte ++ rest) = .ok (fr, rest)))

/-- R149, in part: a rearranged payload passes DECODE under the checksum of the original. -/
def Obligations.RearrangedPayloadPassesDecode : Prop :=
  ∀ (id : Byte) (f : Message) (p : List Byte), f.wf = true → p.Perm f.payload →
    decodeStream ((bodyBytes id { f with payload := p } ++
        [hiByte (checksum (bodyBytes id f)), loByte (checksum (bodyBytes id f))]).map RxAnswer.byte) =
      .ok (⟨id, { f with payload := p }⟩, [])

/-- R111: ENCODE writes bits 6:5 of the combined byte 0; whatever they hold in a received frame, DECODE keeps them and gives the same frame otherwise, the response dispatch does the same, and encoding the frame again does not reproduce them when one is set. -/
def Obligations.ReservedBitsTakeNoPart : Prop :=
  (∀ (ack : Bool) (n : Nat), n ≤ 20 → (combinedByte ack n).extractLsb' 5 2 = 0) ∧
  (∀ (id : Byte) (f : Message) (c : Byte), f.wf = true →
    c.extractLsb' 0 5 = f.comb.extractLsb' 0 5 → c.getLsbD 7 = f.comb.getLsbD 7 →
    decodeStream ((wireImage id f).map RxAnswer.byte) = .ok (⟨id, f⟩, []) ∧
    decodeStream ((wireImage id { f with comb := c }).map RxAnswer.byte) =
      .ok (⟨id, { f with comb := c }⟩, [])) ∧
  (∀ (s : State) (c : Byte), s.fsm = .await →
    dispatchResponse { s with rx := { s.rx with comb := c } } =
      onNext (fun t => { t with rx := { t.rx with comb := c } }) (dispatchResponse s)) ∧
  (∀ (id : Byte) (f : Message) (w : List Byte), f.wf = true → f.comb.extractLsb' 5 2 ≠ 0 →
    encodeFrame id (ackField f.comb) f.node f.src f.dst f.payload = .ok w → w ≠ wireImage id f)

/-- 95_test_vectors.md: the wire bytes of V1, V5, K1, K2, K5 and the two commands decode to what they stand for. -/
def Obligations.WrittenOutWordsDecode : Prop :=
  decode (.frame [0xFC, 0x70, 0xFF, 0x80, 0x80, 0x80, 0xF3, 0x7A, 0x51, 0xFB, 0xA0, 0xFF, 0xFF, 0x09, 0x42]) =
    .ok (.move ⟨0x8F, 0x00, ⟨0x7F, 0x7F, 0x7F⟩, ⟨0x0C, 0x85, 0xAE⟩, [0x04, 0x5F, 0x00, 0x00]⟩) ∧
  decode (.frame [0xF3, 0xF4, 0xFF, 0x80, 0x80, 0x80, 0xF3, 0x7A, 0x51, 0x06, 0x24]) =
    .ok (.query ⟨0x0B, 0x00, ⟨0x7F, 0x7F, 0x7F⟩, ⟨0x0C, 0x85, 0xAE⟩, []⟩) ∧
  decode (.frame [0x80, 0xF4, 0x8F, 0x51, 0x7A, 0xF3, 0x80, 0x80, 0x80, 0x05, 0x41]) =
    .ok (.ack ⟨0x0B, 0x70, ⟨0xAE, 0x85, 0x0C⟩, ⟨0x7F, 0x7F, 0x7F⟩, []⟩) ∧
  decode (.frame [0x90, 0xF3, 0x8F, 0x51, 0x7A, 0xF3, 0x80, 0x80, 0x80, 0xEF, 0x06, 0x3F]) =
    .ok (.nack ⟨0x0C, 0x70, ⟨0xAE, 0x85, 0x0C⟩, ⟨0x7F, 0x7F, 0x7F⟩, [0x10]⟩) ∧
  decode (.frame [0xF2, 0xEF, 0x8F, 0x51, 0x7A, 0xF3, 0x80, 0x80, 0x80, 0x9B, 0xFF, 0xE9, 0x00, 0xFF, 0x09, 0x30]) =
    .ok (.posreport ⟨0x10, 0x70, ⟨0xAE, 0x85, 0x0C⟩, ⟨0x7F, 0x7F, 0x7F⟩, [0x64, 0x00, 0x16, 0xFF, 0x00]⟩) ∧
  decode (.hostcmd 0 0x0005) = .ok (.setPosition 5) ∧
  decode (.hostcmd 1 0x0005) = .ok .getPosition

/-! ### Host commands -/

/-- R190: for a legal position the device target is `100 − p`, 0 to 100, and mapping twice gives the position back. -/
def Obligations.PositionMapping : Prop :=
  ∀ p : Word16, 0 ≤ p.toInt → p.toInt ≤ 100 →
    (deviceTarget p).toInt = 100 - p.toInt ∧ 0 ≤ (deviceTarget p).toInt ∧
    (deviceTarget p).toInt ≤ 100 ∧ deviceTarget (deviceTarget p) = p

/-- R191: the result is `100 − percentageClosed` over the integers for every byte, −155 to 100, not clamped. -/
def Obligations.PositionResult : Prop :=
  ∀ b : Byte, (callerPosition b).toInt = 100 - (b.toNat : Int) ∧
    -155 ≤ (callerPosition b).toInt ∧ (callerPosition b).toInt ≤ 100

/-- R192: SET_POSITION accepted clears the attempt counter and the results; outside 0 to 100 it ends at acceptance with ValidationError and nothing else: no I/O, SPACE_CNT and the transmit registers untouched; within 0 to 100 a frame is built and the call goes to SPACE. -/
def Obligations.SetPositionValidates : Prop :=
  ∀ (s : State) (pos : Word16), s.fsm = .idle →
    (pos.toInt < 0 ∨ 100 < pos.toInt → exec (.setPosition pos) s = .next { s with
      cmdOp := 0
      attempt := 0
      res := ⟨.validationError, 0, 0, 0, 0, 0⟩
      fsm := .done }) ∧
    (0 ≤ pos.toInt → pos.toInt ≤ 100 → ∃ t : TxFrame, exec (.setPosition pos) s = .next { s with
      cmdOp := 0
      attempt := 0
      res := ⟨.ok, 0, 0, 0, 0, 0⟩
      tx := t
      fsm := .space })

/-- R193: SET_POSITION in 0 to 100 builds the MOVE frame for `100 − p`, 15 bytes on the wire, and goes to SPACE; the payload registers beyond the fourth keep what they held. -/
def Obligations.SetPositionBuildsMove : Prop :=
  ∀ (s : State) (pos : Word16), s.fsm = .idle → 0 ≤ pos.toInt → pos.toInt ≤ 100 →
    ∃ t : TxFrame,
      exec (.setPosition pos) s = .next { s with
        cmdOp := 0
        attempt := 0
        res := ⟨.ok, 0, 0, 0, 0, 0⟩
        tx := t
        fsm := .space } ∧
      t.msgid = 0x03 ∧ t.ack = true ∧ t.node = 0x00 ∧ t.src = ⟨0x7F, 0x7F, 0x7F⟩ ∧
      t.dst = s.motorAddr ∧ t.pcount = 4 ∧
      t.payload[0] = 0x04 ∧ (t.payload[1].toNat : Int) = 100 - pos.toInt ∧ t.payload[2] = 0x00 ∧
      t.payload[3] = 0x00 ∧ (∀ k : Fin 20, 4 ≤ k.val → t.payload[k] = s.tx.payload[k]) ∧
      logicalBytes t.msgid t.message =
        [0x03, 0x8F, 0x00, 0x7F, 0x7F, 0x7F, s.motorAddr.b0, s.motorAddr.b1, s.motorAddr.b2,
          0x04, t.payload[1], 0x00, 0x00] ∧
      (wireImage t.msgid t.message).length = 15

/-- R210: GET_POSITION, whatever `cmd_pos` is, clears the results, builds the QUERY frame, 11 bytes on the wire, and goes to SPACE. -/
def Obligations.GetPositionBuildsQuery : Prop :=
  (∀ pos : Word16, decode (.hostcmd 1 pos) = .ok .getPosition) ∧
  ∀ s : State, s.fsm = .idle →
    ∃ t : TxFrame, t = ⟨0x0C, false, 0, 0x00, ⟨0x7F, 0x7F, 0x7F⟩, s.motorAddr, s.tx.payload⟩ ∧
      exec .getPosition s = .next { s with
        cmdOp := 1
        attempt := 0
        res := ⟨.ok, 0, 0, 0, 0, 0⟩
        tx := t
        fsm := .space } ∧
      logicalBytes t.msgid t.message =
        [0x0C, 0x0B, 0x00, 0x7F, 0x7F, 0x7F, s.motorAddr.b0, s.motorAddr.b1, s.motorAddr.b2] ∧
      (wireImage t.msgid t.message).length = 11

/-- R224: `cmd_ready` shows IDLE; a command offered outside IDLE is not accepted: no error, no queue, nothing changed by it (a timer transition that happens looks at no port). -/
def Obligations.CommandNotAcceptedDuringCall : Prop :=
  (∀ s : State, s.outputs.cmdReady = true ↔ s.fsm = .idle) ∧
  ∀ (s : State) (pos : Word16), s.fsm ≠ .idle →
    exec (.setPosition pos) s = .next s ∧ exec .getPosition s = .next s ∧
    ∀ (e : Inputs) (es : List Inputs) (v : Bool) (op : BitVec 1), s.env = e :: es →
      timerDone s = false →
      step { s with env := { e with cmdValid := v, cmdOp := op, cmdPos := pos } :: es } = step s

/-! ### MOVE and QUERY -/

/-- R115, R193, R210, and the model's reading of them in log 12: in IDLE, MOVE and QUERY are the building of their frame; a payload that cannot be encoded is a MalformedFrameError with nothing written (R110). -/
def Obligations.MoveAndQueryBuildInIdle : Prop :=
  ∀ (s : State) (f : Message), s.fsm = .idle →
    (∀ h : f.payload.length ≤ 20, ∃ b : Vector Byte 20,
      (∀ k : Fin 20, b[k] = if hk : k.val < f.payload.length then f.payload[k.val] else s.tx.payload[k]) ∧
      exec (.move f) s = .next { s with
        tx := ⟨0x03, f.comb.getLsbD 7, ⟨f.payload.length, by omega⟩, f.node, f.src, f.dst, b⟩
        fsm := .space } ∧
      exec (.query f) s = .next { s with
        tx := ⟨0x0C, f.comb.getLsbD 7, ⟨f.payload.length, by omega⟩, f.node, f.src, f.dst, b⟩
        fsm := .space }) ∧
    (20 < f.payload.length →
      exec (.move f) s = .next { s with res := { s.res with status := .malformedFrameError }, fsm := .done } ∧
      exec (.query f) s = .next { s with res := { s.res with status := .malformedFrameError }, fsm := .done })

/-- R136, R197: MOVE and QUERY in XMIT hand over one wire byte when the transport takes it: the complement of logical byte `i` with the sum grown, then the two halves of the sum; the last byte arms the spacing and begins DECODE, from which the receive frame registers hold no defined value. -/
def Obligations.MoveAndQueryHandOverBytes : Prop :=
  ∀ (s : State) (f : Message), s.fsm = .xmit → s.input.txErr = false → s.input.txReady = true →
    (∀ b, (logicalBytes 0x03 f)[s.txIdx.val]? = some b →
      exec (.move f) s = .next { s with
        txOut := s.txOut ++ [~~~b], txSum := s.txSum + (~~~b).setWidth 16, txIdx := s.txIdx + 1 }) ∧
    (∀ b, (logicalBytes 0x0C f)[s.txIdx.val]? = some b →
      exec (.query f) s = .next { s with
        txOut := s.txOut ++ [~~~b], txSum := s.txSum + (~~~b).setWidth 16, txIdx := s.txIdx + 1 }) ∧
    ∀ i ∈ [Instr.move f, Instr.query f],
      (s.txIdx.val = 9 + f.payload.length →
        exec i s = .next { s with
          txOut := s.txOut ++ [s.txSum.extractLsb' 8 8], txIdx := s.txIdx + 1 }) ∧
      (s.txIdx.val = 10 + f.payload.length → ∃ r : RxFrame,
        exec i s = .next { s with
          txOut := s.txOut ++ [s.txSum.extractLsb' 0 8], txIdx := s.txIdx + 1
          spaceCnt := nSpace, fsm := .await
          rx := r, rxIdx := 0, rxSum := 0, rxCk := 0, freeCnt := s.freeCnt + 1 })

/-- R198, R41: a write failure reported in XMIT arms the spacing and ends the call with TransportError, whether or not the transport offers to take a byte. -/
def Obligations.WriteFailureEndsCall : Prop :=
  ∀ (s : State) (f : Message), s.fsm = .xmit → s.input.txErr = true →
    ∀ i ∈ [Instr.move f, Instr.query f],
      exec i s = .next { s with
        spaceCnt := nSpace, res := { s.res with status := .transportError }, fsm := .done }

/-- R109, R205, R211: a good frame with an ID the running command does not expect (MOVE and QUERY among them) is a ProtocolError that names the ID, with no retry. -/
def Obligations.UnexpectedMessageIsProtocolError : Prop :=
  ∀ s : State, s.fsm = .await →
    (s.cmdOp = 0 ∧ s.rx.msgid ≠ 0x7F ∧ s.rx.msgid ≠ 0x6F) ∨ (s.cmdOp = 1 ∧ s.rx.msgid ≠ 0x0D) →
    dispatchResponse s = .next { s with
      res := { s.res with status := .protocolError, msgid := s.rx.msgid }, fsm := .done }

/-! ### ACK, NACK, POSREPORT -/

/-- R201: an ACK in answer to MOVE ends the call with OK whatever ATTEMPT is and whatever else the frame holds. -/
def Obligations.AckEndsCallOk : Prop :=
  ∀ (s : State) (f : Message), s.fsm = .await → s.cmdOp = 0 →
    exec (.ack f) s = .next { s with res := { s.res with status := .ok }, fsm := .done }

/-- R202, R105: a NACK in answer to MOVE stores its code, the first payload byte or 0xFF; with ATTEMPT 0 or 1 the backoff begins, with ATTEMPT 2 the call ends with MaxRetriesExceededError. -/
def Obligations.NackRetriesOrGivesUp : Prop :=
  ∀ (s : State) (f : Message) (code : Byte), s.fsm = .await → s.cmdOp = 0 →
    ((∃ rest, f.payload = code :: rest) ∨ (f.payload = [] ∧ code = 0xFF)) →
    (s.attempt = 2 → exec (.nack f) s = .next { s with
      res := { s.res with errcode := code, status := .maxRetriesExceededError }, fsm := .done }) ∧
    (s.attempt ≠ 2 → exec (.nack f) s = .next { s with
      res := { s.res with errcode := code }, backoffCnt := nBackoff, fsm := .backoff })

/-- R213, R214, R212: a position report in answer to QUERY gives `100 − percentageClosed`, its third payload byte; one of fewer than five payload bytes is a MalformedFrameError. -/
def Obligations.PositionReportGivesPosition : Prop :=
  ∀ (s : State) (f : Message), s.fsm = .await → s.cmdOp = 1 →
    (∀ p0 p1 closed reserved ip rest, f.payload = p0 :: p1 :: closed :: reserved :: ip :: rest →
      exec (.posreport f) s = .next { s with
        res := { s.res with status := .ok, pos := BitVec.ofInt 16 (100 - (closed.toNat : Int)) }
        fsm := .done }) ∧
    (f.payload.length < 5 → exec (.posreport f) s = .next { s with
      res := { s.res with status := .malformedFrameError }, fsm := .done })

/-- R211, R205 at the instructions: ACK and NACK in answer to QUERY, POSREPORT in answer to MOVE, MOVE and QUERY in answer to either, are ProtocolErrors. -/
def Obligations.WrongAnswersAreProtocolErrors : Prop :=
  ∀ (s : State) (f : Message), s.fsm = .await →
    (s.cmdOp = 1 → exec (.ack f) s = .next { s with
      res := { s.res with status := .protocolError, msgid := 0x7F }, fsm := .done }) ∧
    (s.cmdOp = 1 → exec (.nack f) s = .next { s with
      res := { s.res with status := .protocolError, msgid := 0x6F }, fsm := .done }) ∧
    (s.cmdOp = 0 → exec (.posreport f) s = .next { s with
      res := { s.res with status := .protocolError, msgid := 0x0D }, fsm := .done }) ∧
    exec (.move f) s = .next { s with
      res := { s.res with status := .protocolError, msgid := 0x03 }, fsm := .done } ∧
    exec (.query f) s = .next { s with
      res := { s.res with status := .protocolError, msgid := 0x0C }, fsm := .done }

/-- R220, R252, and log 13: in a state that does not look at messages, a message changes nothing. -/
def Obligations.MessagesElsewhereChangeNothing : Prop :=
  ∀ (s : State) (f : Message),
    (s.fsm = .space ∨ s.fsm = .backoff ∨ s.fsm = .done →
      ∀ i ∈ [Instr.move f, Instr.query f, Instr.posreport f, Instr.nack f, Instr.ack f],
        exec i s = .next s) ∧
    (s.fsm = .idle ∨ s.fsm = .xmit →
      ∀ i ∈ [Instr.posreport f, Instr.nack f, Instr.ack f], exec i s = .next s)

/-! ### Errors -/

/-- R250, R240: raising an error writes the registers it names, its status and FSM ← DONE, and nothing else; success is the same with code 0. -/
def Obligations.RaiseWritesOnlyItsRegisters : Prop :=
  ∀ s : State,
    raise .validation s = { s with res := { s.res with status := .validationError }, fsm := .done } ∧
    raise .transport s = { s with res := { s.res with status := .transportError }, fsm := .done } ∧
    (∀ e r, raise (.checksum e r) s = { s with
      res := { s.res with status := .checksumError, ckExp := e, ckRcv := r }, fsm := .done }) ∧
    raise .malformed s = { s with res := { s.res with status := .malformedFrameError }, fsm := .done } ∧
    (∀ m, raise (.protocol m) s = { s with
      res := { s.res with status := .protocolError, msgid := m }, fsm := .done }) ∧
    (∀ c, raise (.maxRetries c) s = { s with
      res := { s.res with status := .maxRetriesExceededError, errcode := c }, fsm := .done }) ∧
    succeed s = { s with res := { s.res with status := .ok }, fsm := .done } ∧
    [Status.ok, .validationError, .transportError, .checksumError, .malformedFrameError,
      .protocolError, .maxRetriesExceededError].map Status.code = [0, 1, 2, 3, 4, 5, 6]

/-- R221: in DONE the result is held until it is taken, and taking it leads to IDLE with nothing else changed but SPACE_CNT, which keeps counting. -/
def Obligations.ResultHeldUntilTaken : Prop :=
  ∀ s : State, s.fsm = .done → s.input.rst = false →
    s.outputs.resValid = true ∧ step s = .next { s with
      fsm := if s.input.resReady then .idle else .done
      spaceCnt := if s.input.tick then s.spaceCnt - 1 else s.spaceCnt
      env := s.env.tail }

/-- R268, R170: with no answer of the transport the core waits in XMIT and AWAIT, with no host in DONE and IDLE; only SPACE_CNT moves. -/
def Obligations.UnansweredCoreWaits : Prop :=
  ∀ s : State, s.input.rst = false →
    (s.fsm = .xmit ∧ s.input.txErr = false ∧ s.input.txReady = false) ∨
    (s.fsm = .await ∧ s.input.rxErr = false ∧ s.input.rxValid = false) ∨
    (s.fsm = .done ∧ s.input.resReady = false) ∨ (s.fsm = .idle ∧ s.input.cmdValid = false) →
    step s = .next { s with
      spaceCnt := if s.input.tick then s.spaceCnt - 1 else s.spaceCnt
      env := s.env.tail }

/-! ### DECODE, byte-serial -/

/-- R141, R142: a header byte is complemented into its register, its wire value is summed, RX_IDX advances; with the ninth, LEN below 11 is a MalformedFrameError and any other LEN gives RX_PCOUNT. -/
def Obligations.HeaderByteStored : Prop :=
  ∀ (s : State) (b : Byte), s.rxIdx.val ≤ 8 →
    ∃ r : RxFrame,
      (s.rxIdx = 0 → r = { s.rx with msgid := ~~~b }) ∧
      (s.rxIdx = 1 → r = { s.rx with comb := ~~~b }) ∧
      (s.rxIdx = 2 → r = { s.rx with node := ~~~b }) ∧
      (s.rxIdx = 3 → r = { s.rx with src := ⟨~~~b, s.rx.src.b1, s.rx.src.b2⟩ }) ∧
      (s.rxIdx = 4 → r = { s.rx with src := ⟨s.rx.src.b0, ~~~b, s.rx.src.b2⟩ }) ∧
      (s.rxIdx = 5 → r = { s.rx with src := ⟨s.rx.src.b0, s.rx.src.b1, ~~~b⟩ }) ∧
      (s.rxIdx = 6 → r = { s.rx with dst := ⟨~~~b, s.rx.dst.b1, s.rx.dst.b2⟩ }) ∧
      (s.rxIdx = 7 → r = { s.rx with dst := ⟨s.rx.dst.b0, ~~~b, s.rx.dst.b2⟩ }) ∧
      (s.rxIdx = 8 → r = { s.rx with dst := ⟨s.rx.dst.b0, s.rx.dst.b1, ~~~b⟩ }) ∧
      (s.rxIdx.val < 8 → receiveByte b s = .more { s with
        rx := r, rxSum := s.rxSum + b.setWidth 16, rxIdx := s.rxIdx + 1 }) ∧
      (s.rxIdx = 8 → (s.rx.comb.extractLsb' 0 5).toNat < 11 → receiveByte b s = .ended { s with
        rx := r, rxSum := s.rxSum + b.setWidth 16, rxIdx := s.rxIdx + 1
        res := { s.res with status := .malformedFrameError }, fsm := .done }) ∧
      (s.rxIdx = 8 → 11 ≤ (s.rx.comb.extractLsb' 0 5).toNat → ∃ n : Fin 21,
        n.val + 11 = (s.rx.comb.extractLsb' 0 5).toNat ∧ receiveByte b s = .more { s with
          rx := { r with pcount := n }, rxSum := s.rxSum + b.setWidth 16, rxIdx := s.rxIdx + 1 })

/-- R143, R144, R145: a payload byte is complemented into the buffer and summed; the two checksum bytes are neither; after the second the frame is in, or the call ends with ChecksumError carrying both values. -/
def Obligations.PayloadAndChecksumBytes : Prop :=
  ∀ (s : State) (b : Byte), 9 ≤ s.rxIdx.val →
    (∀ k : Fin 20, s.rxIdx.val = 9 + k.val → k.val < s.rx.pcount.val → receiveByte b s = .more { s with
      rx := { s.rx with payload := s.rx.payload.set k (~~~b) }
      rxSum := s.rxSum + b.setWidth 16, rxIdx := s.rxIdx + 1 }) ∧
    (s.rxIdx.val = 9 + s.rx.pcount.val → receiveByte b s = .more { s with
      rxCk := b ++ s.rxCk.extractLsb' 0 8, rxIdx := s.rxIdx + 1 }) ∧
    (s.rxIdx.val = 10 + s.rx.pcount.val → ∀ ck : Word16, ck = s.rxCk.extractLsb' 8 8 ++ b →
      (ck = s.rxSum → receiveByte b s = .frameIn { s with rxCk := ck, rxIdx := s.rxIdx + 1 }) ∧
      (ck ≠ s.rxSum → receiveByte b s = .ended { s with
        rxCk := ck, rxIdx := s.rxIdx + 1
        res := { s.res with status := .checksumError, ckExp := s.rxSum, ckRcv := ck }, fsm := .done }))

/-- R199, R41: a read failure reported in AWAIT ends the call with TransportError, whatever ATTEMPT is, whether or not a byte comes with it. -/
def Obligations.ReadFailureEndsCall : Prop :=
  ∀ s : State, s.fsm = .await → s.input.rst = false → s.input.rxErr = true →
    step s = .next { s with
      res := { s.res with status := .transportError }, fsm := .done
      spaceCnt := if s.input.tick then s.spaceCnt - 1 else s.spaceCnt
      env := s.env.tail }

/-! ### Scheduler, backoff, reset -/

/-- R170: a Tick, in any sequencer state: SPACE_CNT falls by one and stops at 0, BACKOFF_CNT likewise and only in BACKOFF, and nothing else changes; at one edge the Tick comes first and the event second. -/
def Obligations.TickLowersTheCounters : Prop :=
  ∀ s : State,
    tick s = { s with
      spaceCnt := if 0 < s.spaceCnt then s.spaceCnt - 1 else s.spaceCnt
      backoffCnt := if s.fsm = .backoff ∧ 0 < s.backoffCnt then s.backoffCnt - 1 else s.backoffCnt } ∧
    (timerDone s = false → s.input.rst = false →
      step s = onNext dropInput (portEvent (if s.input.tick then tick s else s)))

/-- R196, R174: with SPACE_CNT 0 in SPACE a transmission starts, with no further Tick unless the core lets the moment pass first (R306, log 2), which then changes nothing; and this is the only way into XMIT. -/
def Obligations.TransmissionStartsOnlyFromSpace : Prop :=
  (∀ s : State, s.fsm = .space → s.spaceCnt = 0 →
    (s.input.lag = false → step s = .next { s with txIdx := 0, txSum := 0, fsm := .xmit }) ∧
    (s.input.lag = true → s.input.rst = false → step s = .next { s with env := s.env.tail })) ∧
  (∀ s t : State, step s = .next t → s.fsm ≠ .xmit → t.fsm = .xmit → s.fsm = .space ∧ s.spaceCnt = 0)

/-- R204: with BACKOFF_CNT 0 in BACKOFF the next attempt begins: ATTEMPT + 1, FSM ← SPACE, the frame untouched; a moment the core lets pass first (R306, log 2) lowers SPACE_CNT by its Tick alone. -/
def Obligations.BackoffEnds : Prop :=
  ∀ (s : State) (a : Fin 3), s.fsm = .backoff → s.backoffCnt = 0 → a.val = s.attempt.val + 1 →
    (s.input.lag = false → step s = .next { s with attempt := a, fsm := .space }) ∧
    (s.input.lag = true → s.input.rst = false → step s = .next { s with
      spaceCnt := if s.input.tick then s.spaceCnt - 1 else s.spaceCnt
      env := s.env.tail })

/-- R306, R177: between the moment a timer has run out and the transition any number of clock periods can pass: for every number there is a choice of the free delays (log 2) with which exactly that many do. -/
def Obligations.TransitionsTakeAnyNumberOfPeriods : Prop :=
  ∀ (s : State) (n : Nat) (e : Inputs) (rest : List Inputs),
    e.lag = true → e.tick = true → e.rst = false → s.env = List.replicate n e ++ rest →
    (rest.headD quietInputs).lag = false →
    (s.fsm = .space → s.spaceCnt = 0 → ticksIn (n + 1) s = n ∧
      runFor (n + 1) s = .next { s with txIdx := 0, txSum := 0, fsm := .xmit, env := rest }) ∧
    (∀ a : Fin 3, s.fsm = .backoff → s.backoffCnt = 0 → a.val = s.attempt.val + 1 →
      ticksIn (n + 1) s = n ∧ runFor (n + 1) s = .next { s with
        spaceCnt := s.spaceCnt - n, attempt := a, fsm := .space, env := rest })

/-- R173: SPACE_ARM happens at the completion of a write, at a write failure and at reset; every other step leaves SPACE_CNT alone but for its Tick. -/
def Obligations.SpacingArmedAtThreeMoments : Prop :=
  ∀ s t : State, step s = .next t →
    (isResetStep s = true → t.spaceCnt = nSpace) ∧
    (isResetStep s = false → s.fsm = .xmit → t.fsm = .await ∨ t.fsm = .done → t.spaceCnt = nSpace) ∧
    (isResetStep s = false → ¬(s.fsm = .xmit ∧ (t.fsm = .await ∨ t.fsm = .done)) →
      t.spaceCnt = s.spaceCnt - stepTicks s)

/-- R176: from the end of any write, or from a reset edge, or from power-on, to the entry into XMIT for the next write at least N_SPACE Ticks pass, and N_SPACE clock periods are at least 100 ms. -/
def Obligations.WritesAreSpaced : Prop :=
  clkHz ≤ 10 * nSpace ∧
  (∀ (r s t : State) (k : Nat), step r = .next s →
    (r.fsm = .xmit ∧ s.fsm ≠ .xmit) ∨ isResetStep r = true →
    runFor k s = .next t → t.fsm = .xmit → nSpace ≤ ticksIn k s) ∧
  (∀ (env : List Inputs) (t : State) (k : Nat),
    runFor k { State.reset with env := env } = .next t → t.fsm = .xmit →
    nSpace ≤ ticksIn k { State.reset with env := env })

/-- R203: a backoff lasts at least N_BACKOFF Ticks, counted from the step that read the NACK, and in it nothing is written and nothing is read. -/
def Obligations.BackoffLasts : Prop :=
  clkHz ≤ nBackoff ∧
  ∀ (r s t : State) (k : Nat), step r = .next s → r.fsm ≠ .backoff → s.fsm = .backoff →
    allAlong (fun u => decide (u.fsm = .backoff)) k s = true → runFor k s = .next t →
    (t.fsm = .space → nBackoff ≤ ticksIn k s) ∧
    (t.fsm = .space ∨ t.fsm = .backoff → t.txOut = s.txOut ∧ t.rx = s.rx ∧ t.rxIdx = s.rxIdx)

/-- R44, R281: a reset edge, in any state, gives every register the table names its value, MOTOR_ADDR from the strap reversed, and no result; bytes handed over stay sent. -/
def Obligations.ResetFromAnyState : Prop :=
  ∀ s : State, isResetStep s = true → ∃ (tx : TxFrame) (rx : RxFrame) (t : State),
    step s = .next t ∧ t.outputs.cmdReady = true ∧ t.outputs.resValid = false ∧
    t.outputs.txValid = false ∧ t.outputs.rxReady = false ∧ t = {
      motorAddr := ⟨s.input.cfgAddr.extractLsb' 0 8, s.input.cfgAddr.extractLsb' 8 8,
        s.input.cfgAddr.extractLsb' 16 8⟩
      spaceCnt := nSpace, fsm := .idle, attempt := 0, cmdOp := 0, backoffCnt := 0
      txIdx := 0, txSum := 0, rxIdx := 0, rxSum := 0, rxCk := 0
      res := ⟨.ok, 0, 0, 0, 0, 0⟩
      tx := tx, rx := rx, txOut := s.txOut, env := s.env.tail, freeCnt := s.freeCnt }

/-- R44: the state after power-on, with the strap of the configuration; the outputs show `cmd_ready` alone. -/
def Obligations.PowerOnState : Prop :=
  State.reset.motorAddr = ⟨Config.cfgAddr.extractLsb' 0 8, Config.cfgAddr.extractLsb' 8 8,
    Config.cfgAddr.extractLsb' 16 8⟩ ∧
  State.reset.spaceCnt = nSpace ∧ State.reset.fsm = .idle ∧ State.reset.attempt = 0 ∧
  State.reset.cmdOp = 0 ∧ State.reset.backoffCnt = 0 ∧ State.reset.txIdx = 0 ∧
  State.reset.txSum = 0 ∧ State.reset.rxIdx = 0 ∧ State.reset.rxSum = 0 ∧ State.reset.rxCk = 0 ∧
  State.reset.res = ⟨.ok, 0, 0, 0, 0, 0⟩ ∧
  State.reset.outputs.cmdReady = true ∧ State.reset.outputs.resValid = false ∧
  State.reset.outputs.txValid = false ∧ State.reset.outputs.rxReady = false

/-- R65, R40: `tx_valid` only in XMIT and `rx_ready` only in AWAIT, so never both. -/
def Obligations.NeverReadAndWriteTogether : Prop :=
  ∀ s : State, (s.outputs.txValid = true ↔ s.fsm = .xmit) ∧ (s.outputs.rxReady = true ↔ s.fsm = .await) ∧
    (s.outputs.txValid && s.outputs.rxReady) = false

/-! ### The step and the whole machine -/

/-- 42_engine.md section 6, log 10: a step runs the decoded instruction: the command at the port in IDLE, the message in the transmit registers in XMIT, the message in the receive registers when its last byte completes DECODE; around it stand the Tick before and the end of the input after. -/
def Obligations.StepRunsTheDecodedInstruction : Prop :=
  ∀ (s : State) (i : Instr), s.input.rst = false →
    (s.fsm = .idle → s.input.cmdValid = true → decode (.hostcmd s.input.cmdOp s.input.cmdPos) = .ok i →
      step s = onNext dropInput (exec i (tickIf s.input.tick s))) ∧
    (s.fsm = .xmit → s.tx.msgid = 0x03 ∨ s.tx.msgid = 0x0C → messageOf s.tx.msgid s.tx.message = .ok i →
      step s = onNext dropInput (exec i (tickIf s.input.tick s))) ∧
    (∀ u : State, s.fsm = .await → s.input.rxErr = false → s.input.rxValid = true →
      receiveByte s.input.rxData (tickIf s.input.tick s) = .frameIn u →
      messageOf u.rx.msgid u.rx.message = .ok i →
      step s = onNext dropInput (exec i u))

/-- Log 10: placed as the next instruction, every well-formed instruction is the one the next step runs, from any state (a frame of the core with its reserved bits clear, as ENCODE writes them). -/
def Obligations.PlacedInstructionRunsNext : Prop :=
  ∀ (i : Instr) (s : State), i.wf = true →
    (∀ f, i = .move f ∨ i = .query f → f.comb.extractLsb' 5 2 = 0) →
    ∃ u, step (placeInstr i s) = onNext dropInput (exec i u) ∧
      u.motorAddr = s.motorAddr ∧ u.attempt = s.attempt ∧ u.res = s.res ∧ u.spaceCnt = s.spaceCnt ∧
      u.txOut = s.txOut ∧ u.env.tail = s.env

/-- R252: what a sequencer state does not look at is ignored: two moments that agree on the clock, on reset and on the inputs of the state's own channel (or the free delay of its transition, log 2) give the same outcome (a timer transition that happens consumes no moment at all). -/
def Obligations.OtherInputsIgnored : Prop :=
  ∀ (s : State) (e e' : Inputs) (es : List Inputs), s.env = e :: es → timerDone s = false →
    sameInputsFor s.fsm e e' →
    step { s with env := e' :: es } = step s

/-- R220: every step is a row of the transition table: the start of a transmission, the end of a backoff, a reset, or, after its Tick, one of the rows an input causes, with that row's actions and target and nothing else. -/
def Obligations.EveryStepIsATableRow : Prop :=
  ∀ s t : State, step s = .next t →
    (timerDone s = true ∧ s.fsm = .space ∧ s.spaceCnt = 0 ∧ t = { s with txIdx := 0, txSum := 0, fsm := .xmit }) ∨
    (timerDone s = true ∧ s.fsm = .backoff ∧ s.backoffCnt = 0 ∧
      ∃ a : Fin 3, a.val = s.attempt.val + 1 ∧ t = { s with attempt := a, fsm := .space }) ∨
    (isResetStep s = true ∧ t = { resetRegisters s.input.cfgAddr s with env := s.env.tail }) ∨
    (isResetStep s = false ∧ timerDone s = false ∧
      ∃ u, Transition (if s.input.tick then tick s else s) u ∧ t = { u with env := s.env.tail })

/-- R258: a retry follows a NACK in answer to MOVE with an attempt left, and nothing else; every other outcome of a response, and every failure, ends the call at once. -/
def Obligations.RetryOnlyAfterNack : Prop :=
  ∀ s t : State, step s = .next t → isResetStep s = false →
    (s.fsm ≠ .backoff → t.fsm = .backoff →
      s.fsm = .await ∧ s.cmdOp = 0 ∧ t.rx.msgid = 0x6F ∧ t.rxCk = t.rxSum ∧ s.attempt ≠ 2 ∧
      t.attempt = s.attempt ∧ t.backoffCnt = nBackoff) ∧
    (s.fsm = .xmit → t.fsm = .xmit ∨ t.fsm = .await ∨ t.fsm = .done) ∧
    (s.fsm = .await → t.fsm = .await ∨ t.fsm = .backoff ∨ t.fsm = .done) ∧
    (t.res.status ≠ s.res.status → t.res.status ≠ .ok → t.fsm = .done)

/-- R79: MOTOR_ADDR is written by reset alone, the transmit frame registers at acceptance alone (and by reset): every attempt of a call sends the same bytes. -/
def Obligations.FrameKeptForRetransmission : Prop :=
  ∀ s t : State, step s = .next t → isResetStep s = false →
    t.motorAddr = s.motorAddr ∧
    (¬(s.fsm = .idle ∧ t.fsm = .space) →
      t.tx = s.tx ∧ wireImage t.tx.msgid t.tx.message = wireImage s.tx.msgid s.tx.message)

/-- R63, R74: a step adds at most one byte to the transmit stream and takes none back; it adds one only in XMIT, when the transport takes it and reports no failure, and then it is the byte on `tx_data`. -/
def Obligations.TransmitStreamOnlyGrows : Prop :=
  ∀ s t : State, step s = .next t →
    t.txOut = s.txOut ∨
    (s.fsm = .xmit ∧ s.input.rst = false ∧ s.input.txReady = true ∧ s.input.txErr = false ∧
      ∃ w, s.outputs.txData = some w ∧ t.txOut = s.txOut ++ [w])

/-! ### Refinement of the pure codec -/

/-- R136: from the start of a transmission, with a transport that takes a byte at every moment, the wire bytes are exactly those ENCODE gives for the transmit registers; then the spacing is armed and the core awaits the response. -/
def Obligations.TransmissionWritesEncodedFrame : Prop :=
  ∀ (s : State) (es rest : List Inputs), s.fsm = .xmit → s.txIdx = 0 → s.txSum = 0 →
    s.env = es ++ rest → es.length = 11 + s.tx.pcount.val →
    (∀ e ∈ es, e.rst = false ∧ e.txErr = false ∧ e.txReady = true) →
    ∃ (w : List Byte) (t : State),
      encodeFrame s.tx.msgid s.tx.ack s.tx.node s.tx.src s.tx.dst
        (s.tx.payload.toList.take s.tx.pcount) = .ok w ∧
      runFor (11 + s.tx.pcount.val) s = .next t ∧
      t.txOut = s.txOut ++ w ∧ t.fsm = .await ∧ t.spaceCnt = nSpace ∧ t.env = rest ∧
      t.rxIdx = 0 ∧ t.rxSum = 0 ∧ t.rxCk = 0 ∧ t.tx = s.tx ∧ t.motorAddr = s.motorAddr ∧
      t.attempt = s.attempt ∧ t.cmdOp = s.cmdOp ∧ t.res = s.res

/-- R146, R138: the wire image of a frame delivered byte by byte to a DECODE that begins leaves exactly that frame in the receive registers, both checksums equal, all its bytes consumed, and the run ends in the response dispatch on it. -/
def Obligations.ReceptionDecodesFrame : Prop :=
  ∀ (s : State) (es rest : List Inputs) (id : Byte) (f : Message),
    s.fsm = .await → s.rxIdx = 0 → s.rxSum = 0 → s.rxCk = 0 → f.wf = true →
    s.env = es ++ rest → es.map Inputs.rxData = wireImage id f →
    (∀ e ∈ es, e.rst = false ∧ e.rxErr = false ∧ e.rxValid = true) →
    ∃ t : State,
      runFor (11 + f.payload.length) s = onNext dropInput (dispatchResponse t) ∧
      t.rx.msgid = id ∧ t.rx.message = f ∧ t.rx.pcount.val = f.payload.length ∧ t.rxIdx.val = 11 + f.payload.length ∧
      t.rxSum = checksum (bodyBytes id f) ∧ t.rxCk = t.rxSum ∧ t.env.tail = rest ∧
      t.fsm = .await ∧ t.cmdOp = s.cmdOp ∧ t.attempt = s.attempt ∧ t.tx = s.tx ∧
      t.txOut = s.txOut ∧ t.res = s.res ∧ t.motorAddr = s.motorAddr

/-- R142, R243: of a frame with LEN below 11 exactly nine bytes are consumed before MalformedFrameError; a frame whose checksum bytes do not match is consumed whole and ends with ChecksumError carrying both values. -/
def Obligations.BadFramesEndTheCall : Prop :=
  ∀ (s : State) (es rest : List Inputs),
    s.fsm = .await → s.rxIdx = 0 → s.rxSum = 0 → s.rxCk = 0 → s.env = es ++ rest →
    (∀ e ∈ es, e.rst = false ∧ e.rxErr = false ∧ e.rxValid = true) →
    (∀ m c n s0 s1 s2 d0 d1 d2 : Byte, es.map Inputs.rxData = [m, c, n, s0, s1, s2, d0, d1, d2] →
      lenField (inv c) < 11 → ∃ t, runFor 9 s = .next t ∧ t.fsm = .done ∧
        t.res = { s.res with status := .malformedFrameError } ∧ t.env = rest ∧ t.rxIdx = 9) ∧
    (∀ (id : Byte) (f : Message) (hi lo : Byte), f.wf = true →
      es.map Inputs.rxData = bodyBytes id f ++ [hi, lo] → u16be hi lo ≠ checksum (bodyBytes id f) →
      ∃ t, runFor (11 + f.payload.length) s = .next t ∧ t.fsm = .done ∧
        t.res = { s.res with
          status := .checksumError, ckExp := checksum (bodyBytes id f), ckRcv := u16be hi lo } ∧
        t.env = rest ∧ t.rx.message = f)

/-! ### Invariants and whole calls -/

/-- R23, R24, R26, R28, R31: every step keeps the counters and indexes in their ranges. -/
def Obligations.ControlInvKept : Prop :=
  ∀ s t : State, ControlInv s → step s = .next t → ControlInv t

/-- R28, R31: every step keeps TX_SUM and RX_SUM the sums of the wire bytes handed over and consumed so far. -/
def Obligations.RunningSumsKept : Prop :=
  ∀ s t : State, ControlInv s → SumInv s → step s = .next t → SumInv t

/-- R79, R193, R210: every step keeps the frame of the call in the transmit registers while the call is in progress. -/
def Obligations.CallFrameKept : Prop :=
  ∀ s t : State, CallFrameInv s → step s = .next t → CallFrameInv t

/-- R33, R34, R247, R251: every step keeps the result registers as the outcome table says: no position but that of a GET_POSITION that ended OK, −155 to 100, and no outcome the command cannot have. -/
def Obligations.ResultsKept : Prop :=
  ∀ s t : State, ResultInv s → step s = .next t → ResultInv t

/-- The four invariants hold after power-on, whatever the inputs to come. -/
def Obligations.InvariantsAtPowerOn : Prop :=
  ∀ env : List Inputs,
    ControlInv { State.reset with env := env } ∧ SumInv { State.reset with env := env } ∧
    CallFrameInv { State.reset with env := env } ∧ ResultInv { State.reset with env := env }

/-- U11, log 14: with the counters and indexes in their ranges the machine never stops: every step has a next state. -/
def Obligations.NeverStops : Prop :=
  ∀ s : State, ControlInv s → ∃ t, step s = .next t

/-- Log 14: where no rule gives an effect, in states outside the ranges, the model stops by name: TX_IDX or RX_IDX beyond the frame, a fourth attempt. -/
def Obligations.StopsOutsideTheRanges : Prop :=
  (∀ (s : State) (f : Message), s.fsm = .xmit → s.input.txErr = false → s.input.txReady = true →
    10 + f.payload.length < s.txIdx.val →
    exec (.move f) s = .fault .txIndexBeyondFrame ∧ exec (.query f) s = .fault .txIndexBeyondFrame) ∧
  (∀ s : State, s.fsm = .await → s.input.rst = false → s.input.rxErr = false → s.input.rxValid = true →
    9 ≤ s.rxIdx.val → 10 + s.rx.pcount.val < s.rxIdx.val → step s = .fault .rxIndexBeyondFrame) ∧
  (∀ s : State, s.fsm = .backoff → s.backoffCnt = 0 → s.attempt = 2 → s.input.lag = false →
    step s = .refused .attemptBeyondTwo)

/-- R207: from the acceptance of a command, within the call, at most three frames are written, at most three responses read, at most two backoffs begun. -/
def Obligations.AtMostThreeTransmissions : Prop :=
  ∀ (k : Nat) (s t : State), s.fsm = .space → s.attempt = 0 → runFor k s = .next t →
    allAlong (fun u => inCall u.fsm) k s = true →
    countSteps completesWrite k s ≤ 3 ∧ countSteps endsResponse k s ≤ 3 ∧
    countSteps beginsBackoff k s ≤ 2

/-- The model's bound, on R225: a call in progress ends in DONE, provided every input answers what the core may wait for, the clock runs, and no transition of the core's own lags, the assumption of fairness of R306 (log 2). That it ends is R225; that it ends within `callBound` steps is the model's choice and no rule of the spec, which gives no upper bound (R177, R306). -/
def Obligations.EveryCallEnds : Prop :=
  ∀ s : State, ControlInv s → inCall s.fsm = true → callBound ≤ s.env.length →
    (∀ e ∈ s.env.take callBound, e.answers = true) →
    ∃ k t, k ≤ callBound ∧ runFor k s = .next t ∧ t.fsm = .done
end

