-- ==== Sys2Proof/Laws/Codec.lean ====
section
/-! SUPPORT. The small laws of the pure codec: complement, byte halves, lengths, the combined byte, the checksum of a grown list, reads that succeed. -/

namespace Sys2Proof.Machine

@[simp] theorem inv_inv (b : Byte) : inv (inv b) = b := by simp [inv]

theorem inv_injective {a b : Byte} (h : inv a = inv b) : a = b := by
  rw [← inv_inv a, h, inv_inv]

/-- The complement as a subtraction (R130). -/
theorem inv_toNat (b : Byte) : (inv b).toNat = 255 - b.toNat := by
  simp [inv, BitVec.toNat_not]

@[simp] theorem map_inv_inv (l : List Byte) : (l.map inv).map inv = l := by
  induction l with
  | nil => rfl
  | cons b l ih => simpa using ih

/-- `256·hi + lo` (R11). -/
theorem u16be_toNat (hi lo : Byte) : (u16be hi lo).toNat = hi.toNat * 256 + lo.toNat := by
  have h : (u16be hi lo).toNat = hi.toNat <<< 8 ||| lo.toNat := BitVec.toNat_append hi lo
  rw [h, ← Nat.shiftLeft_add_eq_or_of_lt lo.isLt, Nat.shiftLeft_eq]

/-- Bits 15:8 as a number (R132). -/
theorem hiByte_toNat (w : Word16) : (hiByte w).toNat = w.toNat / 256 := by
  have := w.isLt
  simp only [hiByte, BitVec.extractLsb'_toNat, Nat.shiftRight_eq_div_pow]
  omega

/-- Bits 7:0 as a number (R132). -/
theorem loByte_toNat (w : Word16) : (loByte w).toNat = w.toNat % 256 := by
  simp [loByte, BitVec.extractLsb'_toNat]

@[simp] theorem u16be_hi_lo (w : Word16) : u16be (hiByte w) (loByte w) = w := by
  apply BitVec.eq_of_toNat_eq
  rw [u16be_toNat, hiByte_toNat, loByte_toNat]
  omega

@[simp] theorem hiByte_u16be (hi lo : Byte) : hiByte (u16be hi lo) = hi := by
  apply BitVec.eq_of_toNat_eq
  have := lo.isLt
  rw [hiByte_toNat, u16be_toNat]
  omega

@[simp] theorem loByte_u16be (hi lo : Byte) : loByte (u16be hi lo) = lo := by
  apply BitVec.eq_of_toNat_eq
  have := lo.isLt
  rw [loByte_toNat, u16be_toNat]
  omega

@[simp] theorem logicalBytes_length (id : Byte) (f : Message) :
    (logicalBytes id f).length = hdrLen + f.payload.length := by
  simp [logicalBytes, addrBytes, hdrLen]; omega

@[simp] theorem bodyBytes_length (id : Byte) (f : Message) :
    (bodyBytes id f).length = hdrLen + f.payload.length := by
  simp [bodyBytes]

/-- A frame is `11 + n` bytes on the wire (R91). -/
@[simp] theorem wireImage_length (id : Byte) (f : Message) :
    (wireImage id f).length = overhead + f.payload.length := by
  simp [wireImage, hdrLen, overhead]; omega

/-- The constants as numbers (R6). -/
theorem hdrLen_eq : hdrLen = 9 := rfl
theorem overhead_eq : overhead = 11 := rfl
theorem maxPayload_eq : maxPayload = 20 := rfl

/-- A frame is well formed when its payload fits and its length field says so (R93, R97). -/
theorem wf_iff (f : Message) :
    f.wf = true ↔ f.payload.length ≤ 20 ∧ lenField f.comb = 11 + f.payload.length := by
  rw [Message.wf, Bool.and_eq_true, decide_eq_true_iff, decide_eq_true_iff, maxPayload_eq, overhead_eq]

/-- ENCODE of a payload that fits (R135). -/
theorem encodeFrame_of_le (id : Byte) (ack : Bool) (node : Byte) (src dst : Addr) {p : List Byte}
    (h : p.length ≤ 20) :
    encodeFrame id ack node src dst p = .ok (wireImage id (messageOfOperands ack node src dst p)) := by
  rw [encodeFrame, maxPayload_eq, if_neg (by omega)]

/-- ENCODE of a payload that does not fit (R110, R135). -/
theorem encodeFrame_of_gt (id : Byte) (ack : Bool) (node : Byte) (src dst : Addr) {p : List Byte}
    (h : 20 < p.length) : encodeFrame id ack node src dst p = .error .malformed := by
  rw [encodeFrame, maxPayload_eq, if_pos h]

/-- Both ack values, all 21 lengths: the length field of a combined byte (R96, R97). -/
theorem lenField_combinedByte (ack : Bool) {n : Nat} (h : n ≤ maxPayload) :
    lenField (combinedByte ack n) = overhead + n := by
  unfold maxPayload at h
  interval_cases n <;> cases ack <;> rfl

/-- The message of legal operands is well formed (R96). -/
theorem messageOfOperands_wf (ack : Bool) (node : Byte) (src dst : Addr) {p : List Byte}
    (h : p.length ≤ 20) : (messageOfOperands ack node src dst p).wf = true :=
  (wf_iff _).mpr ⟨h, by
    have := lenField_combinedByte ack (n := p.length) (by rw [maxPayload_eq]; exact h)
    rwa [overhead_eq] at this⟩

/-- The ack bit of a combined byte (R96). -/
theorem ackField_combinedByte (ack : Bool) {n : Nat} (h : n ≤ maxPayload) :
    ackField (combinedByte ack n) = ack := by
  unfold maxPayload at h
  interval_cases n <;> cases ack <;> rfl

@[simp] theorem checksum_nil : checksum [] = 0 := rfl

/-- A byte more, its value more (R132). -/
theorem checksum_append (w : List Byte) (b : Byte) :
    checksum (w ++ [b]) = checksum w + b.setWidth 16 := by
  apply BitVec.eq_of_toNat_eq
  simp [checksum, BitVec.toNat_add, BitVec.toNat_setWidth, Nat.add_mod]

/-- The checksum of the first `i + 1` bytes (R136, R141). -/
theorem checksum_take_succ (w : List Byte) (i : Nat) (h : i < w.length) :
    checksum (w.take (i + 1)) = checksum (w.take i) + w[i].setWidth 16 := by
  rw [List.take_succ_eq_append_getElem h, checksum_append]

/-- `n` delivered bytes are `n` successful reads (R62). -/
theorem takeBytes_append (bs : List Byte) (rest : List RxAnswer) :
    takeBytes bs.length (bs.map .byte ++ rest) = .ok (bs, rest) := by
  induction bs with
  | nil => rfl
  | cons b bs ih => simp [takeBytes, ih]

/-- A failure before `n` bytes are in is a TransportError (R62). -/
theorem takeBytes_failure (bs : List Byte) (rest : List RxAnswer) (n : Nat) (h : bs.length < n) :
    takeBytes n (bs.map .byte ++ .failure :: rest) = .error .transport := by
  induction bs generalizing n with
  | nil =>
    cases n with
    | zero => simp at h
    | succ n => rfl
  | cons b bs ih =>
    cases n with
    | zero => simp at h
    | succ n =>
      have hn : bs.length < n := by simpa using h
      simp [takeBytes, ih n hn]

end Sys2Proof.Machine
end

