-- ==== Sys2Proof/Laws/State.lean ====
section
/-! SUPPORT. For each operation, the value of every field of the state after it, true by unfolding: one conjunction an operation, each part a simp lemma. -/

namespace Sys2Proof.Machine

@[simp] theorem raise_fields (e : CallError) (s : State) :
      (raise e s).motorAddr = s.motorAddr ∧
      (raise e s).spaceCnt = s.spaceCnt ∧
      (raise e s).attempt = s.attempt ∧
      (raise e s).cmdOp = s.cmdOp ∧
      (raise e s).backoffCnt = s.backoffCnt ∧
      (raise e s).tx = s.tx ∧
      (raise e s).txIdx = s.txIdx ∧
      (raise e s).txSum = s.txSum ∧
      (raise e s).rx = s.rx ∧
      (raise e s).rxIdx = s.rxIdx ∧
      (raise e s).rxSum = s.rxSum ∧
      (raise e s).rxCk = s.rxCk ∧
      (raise e s).fsm = .done ∧
      (raise e s).res = e.record s.res ∧
      (raise e s).txOut = s.txOut ∧
      (raise e s).env = s.env ∧
      (raise e s).freeCnt = s.freeCnt := by
  refine ⟨rfl, rfl, rfl, rfl, rfl, rfl, rfl, rfl, rfl, rfl, rfl, rfl, rfl, rfl, rfl, rfl, rfl⟩

@[simp] theorem succeed_fields (s : State) :
      (succeed s).motorAddr = s.motorAddr ∧
      (succeed s).spaceCnt = s.spaceCnt ∧
      (succeed s).attempt = s.attempt ∧
      (succeed s).cmdOp = s.cmdOp ∧
      (succeed s).backoffCnt = s.backoffCnt ∧
      (succeed s).tx = s.tx ∧
      (succeed s).txIdx = s.txIdx ∧
      (succeed s).txSum = s.txSum ∧
      (succeed s).rx = s.rx ∧
      (succeed s).rxIdx = s.rxIdx ∧
      (succeed s).rxSum = s.rxSum ∧
      (succeed s).rxCk = s.rxCk ∧
      (succeed s).fsm = .done ∧
      (succeed s).res = { s.res with status := .ok } ∧
      (succeed s).txOut = s.txOut ∧
      (succeed s).env = s.env ∧
      (succeed s).freeCnt = s.freeCnt := by
  refine ⟨rfl, rfl, rfl, rfl, rfl, rfl, rfl, rfl, rfl, rfl, rfl, rfl, rfl, rfl, rfl, rfl, rfl⟩

@[simp] theorem takeResult_fields (s : State) :
      (takeResult s).motorAddr = s.motorAddr ∧
      (takeResult s).spaceCnt = s.spaceCnt ∧
      (takeResult s).attempt = s.attempt ∧
      (takeResult s).cmdOp = s.cmdOp ∧
      (takeResult s).backoffCnt = s.backoffCnt ∧
      (takeResult s).tx = s.tx ∧
      (takeResult s).txIdx = s.txIdx ∧
      (takeResult s).txSum = s.txSum ∧
      (takeResult s).rx = s.rx ∧
      (takeResult s).rxIdx = s.rxIdx ∧
      (takeResult s).rxSum = s.rxSum ∧
      (takeResult s).rxCk = s.rxCk ∧
      (takeResult s).fsm = .idle ∧
      (takeResult s).res = s.res ∧
      (takeResult s).txOut = s.txOut ∧
      (takeResult s).env = s.env ∧
      (takeResult s).freeCnt = s.freeCnt := by
  refine ⟨rfl, rfl, rfl, rfl, rfl, rfl, rfl, rfl, rfl, rfl, rfl, rfl, rfl, rfl, rfl, rfl, rfl⟩

@[simp] theorem tick_fields (s : State) :
      (tick s).motorAddr = s.motorAddr ∧
      (tick s).spaceCnt = s.spaceCnt - 1 ∧
      (tick s).attempt = s.attempt ∧
      (tick s).cmdOp = s.cmdOp ∧
      (tick s).tx = s.tx ∧
      (tick s).txIdx = s.txIdx ∧
      (tick s).txSum = s.txSum ∧
      (tick s).rx = s.rx ∧
      (tick s).rxIdx = s.rxIdx ∧
      (tick s).rxSum = s.rxSum ∧
      (tick s).rxCk = s.rxCk ∧
      (tick s).fsm = s.fsm ∧
      (tick s).res = s.res ∧
      (tick s).txOut = s.txOut ∧
      (tick s).env = s.env ∧
      (tick s).freeCnt = s.freeCnt := by
  refine ⟨rfl, rfl, rfl, rfl, rfl, rfl, rfl, rfl, rfl, rfl, rfl, rfl, rfl, rfl, rfl, rfl⟩

@[simp] theorem spaceArm_fields (s : State) :
      (spaceArm s).motorAddr = s.motorAddr ∧
      (spaceArm s).spaceCnt = nSpace ∧
      (spaceArm s).attempt = s.attempt ∧
      (spaceArm s).cmdOp = s.cmdOp ∧
      (spaceArm s).backoffCnt = s.backoffCnt ∧
      (spaceArm s).tx = s.tx ∧
      (spaceArm s).txIdx = s.txIdx ∧
      (spaceArm s).txSum = s.txSum ∧
      (spaceArm s).rx = s.rx ∧
      (spaceArm s).rxIdx = s.rxIdx ∧
      (spaceArm s).rxSum = s.rxSum ∧
      (spaceArm s).rxCk = s.rxCk ∧
      (spaceArm s).fsm = s.fsm ∧
      (spaceArm s).res = s.res ∧
      (spaceArm s).txOut = s.txOut ∧
      (spaceArm s).env = s.env ∧
      (spaceArm s).freeCnt = s.freeCnt := by
  refine ⟨rfl, rfl, rfl, rfl, rfl, rfl, rfl, rfl, rfl, rfl, rfl, rfl, rfl, rfl, rfl, rfl, rfl⟩

@[simp] theorem startTransmission_fields (s : State) :
      (startTransmission s).motorAddr = s.motorAddr ∧
      (startTransmission s).spaceCnt = s.spaceCnt ∧
      (startTransmission s).attempt = s.attempt ∧
      (startTransmission s).cmdOp = s.cmdOp ∧
      (startTransmission s).backoffCnt = s.backoffCnt ∧
      (startTransmission s).tx = s.tx ∧
      (startTransmission s).txIdx = 0 ∧
      (startTransmission s).txSum = 0 ∧
      (startTransmission s).rx = s.rx ∧
      (startTransmission s).rxIdx = s.rxIdx ∧
      (startTransmission s).rxSum = s.rxSum ∧
      (startTransmission s).rxCk = s.rxCk ∧
      (startTransmission s).fsm = .xmit ∧
      (startTransmission s).res = s.res ∧
      (startTransmission s).txOut = s.txOut ∧
      (startTransmission s).env = s.env ∧
      (startTransmission s).freeCnt = s.freeCnt := by
  refine ⟨rfl, rfl, rfl, rfl, rfl, rfl, rfl, rfl, rfl, rfl, rfl, rfl, rfl, rfl, rfl, rfl, rfl⟩

@[simp] theorem acceptCommand_fields (op : BitVec 1) (s : State) :
      (acceptCommand op s).motorAddr = s.motorAddr ∧
      (acceptCommand op s).spaceCnt = s.spaceCnt ∧
      (acceptCommand op s).attempt = 0 ∧
      (acceptCommand op s).cmdOp = op ∧
      (acceptCommand op s).backoffCnt = s.backoffCnt ∧
      (acceptCommand op s).tx = s.tx ∧
      (acceptCommand op s).txIdx = s.txIdx ∧
      (acceptCommand op s).txSum = s.txSum ∧
      (acceptCommand op s).rx = s.rx ∧
      (acceptCommand op s).rxIdx = s.rxIdx ∧
      (acceptCommand op s).rxSum = s.rxSum ∧
      (acceptCommand op s).rxCk = s.rxCk ∧
      (acceptCommand op s).fsm = s.fsm ∧
      (acceptCommand op s).res = Results.zero ∧
      (acceptCommand op s).txOut = s.txOut ∧
      (acceptCommand op s).env = s.env ∧
      (acceptCommand op s).freeCnt = s.freeCnt := by
  refine ⟨rfl, rfl, rfl, rfl, rfl, rfl, rfl, rfl, rfl, rfl, rfl, rfl, rfl, rfl, rfl, rfl, rfl⟩

@[simp] theorem beginDecode_fields (s : State) :
      (beginDecode s).motorAddr = s.motorAddr ∧
      (beginDecode s).spaceCnt = s.spaceCnt ∧
      (beginDecode s).attempt = s.attempt ∧
      (beginDecode s).cmdOp = s.cmdOp ∧
      (beginDecode s).backoffCnt = s.backoffCnt ∧
      (beginDecode s).tx = s.tx ∧
      (beginDecode s).txIdx = s.txIdx ∧
      (beginDecode s).txSum = s.txSum ∧
      (beginDecode s).rx = freeRxFrame s.freeCnt ∧
      (beginDecode s).rxIdx = 0 ∧
      (beginDecode s).rxSum = 0 ∧
      (beginDecode s).rxCk = 0 ∧
      (beginDecode s).fsm = s.fsm ∧
      (beginDecode s).res = s.res ∧
      (beginDecode s).txOut = s.txOut ∧
      (beginDecode s).env = s.env ∧
      (beginDecode s).freeCnt = s.freeCnt + 1 := by
  refine ⟨rfl, rfl, rfl, rfl, rfl, rfl, rfl, rfl, rfl, rfl, rfl, rfl, rfl, rfl, rfl, rfl, rfl⟩

@[simp] theorem byteTaken_fields (f : Message) (w : Byte) (s : State) :
      (byteTaken f w s).motorAddr = s.motorAddr ∧
      (byteTaken f w s).spaceCnt = s.spaceCnt ∧
      (byteTaken f w s).attempt = s.attempt ∧
      (byteTaken f w s).cmdOp = s.cmdOp ∧
      (byteTaken f w s).backoffCnt = s.backoffCnt ∧
      (byteTaken f w s).tx = s.tx ∧
      (byteTaken f w s).txIdx = s.txIdx + 1 ∧
      (byteTaken f w s).txSum = (if s.txIdx.val < hdrLen + f.payload.length then s.txSum + w.setWidth 16 else s.txSum) ∧
      (byteTaken f w s).rx = s.rx ∧
      (byteTaken f w s).rxIdx = s.rxIdx ∧
      (byteTaken f w s).rxSum = s.rxSum ∧
      (byteTaken f w s).rxCk = s.rxCk ∧
      (byteTaken f w s).fsm = s.fsm ∧
      (byteTaken f w s).res = s.res ∧
      (byteTaken f w s).txOut = s.txOut ++ [w] ∧
      (byteTaken f w s).env = s.env ∧
      (byteTaken f w s).freeCnt = s.freeCnt := by
  refine ⟨rfl, rfl, rfl, rfl, rfl, rfl, rfl, rfl, rfl, rfl, rfl, rfl, rfl, rfl, rfl, rfl, rfl⟩

@[simp] theorem completeWrite_fields (s : State) :
      (completeWrite s).motorAddr = s.motorAddr ∧
      (completeWrite s).spaceCnt = nSpace ∧
      (completeWrite s).attempt = s.attempt ∧
      (completeWrite s).cmdOp = s.cmdOp ∧
      (completeWrite s).backoffCnt = s.backoffCnt ∧
      (completeWrite s).tx = s.tx ∧
      (completeWrite s).txIdx = s.txIdx ∧
      (completeWrite s).txSum = s.txSum ∧
      (completeWrite s).rx = freeRxFrame s.freeCnt ∧
      (completeWrite s).rxIdx = 0 ∧
      (completeWrite s).rxSum = 0 ∧
      (completeWrite s).rxCk = 0 ∧
      (completeWrite s).fsm = .await ∧
      (completeWrite s).res = s.res ∧
      (completeWrite s).txOut = s.txOut ∧
      (completeWrite s).env = s.env ∧
      (completeWrite s).freeCnt = s.freeCnt + 1 := by
  refine ⟨rfl, rfl, rfl, rfl, rfl, rfl, rfl, rfl, rfl, rfl, rfl, rfl, rfl, rfl, rfl, rfl, rfl⟩

@[simp] theorem countByte_fields (b : Byte) (s : State) :
      (countByte b s).motorAddr = s.motorAddr ∧
      (countByte b s).spaceCnt = s.spaceCnt ∧
      (countByte b s).attempt = s.attempt ∧
      (countByte b s).cmdOp = s.cmdOp ∧
      (countByte b s).backoffCnt = s.backoffCnt ∧
      (countByte b s).tx = s.tx ∧
      (countByte b s).txIdx = s.txIdx ∧
      (countByte b s).txSum = s.txSum ∧
      (countByte b s).rx = s.rx ∧
      (countByte b s).rxIdx = s.rxIdx + 1 ∧
      (countByte b s).rxSum = s.rxSum + b.setWidth 16 ∧
      (countByte b s).rxCk = s.rxCk ∧
      (countByte b s).fsm = s.fsm ∧
      (countByte b s).res = s.res ∧
      (countByte b s).txOut = s.txOut ∧
      (countByte b s).env = s.env ∧
      (countByte b s).freeCnt = s.freeCnt := by
  refine ⟨rfl, rfl, rfl, rfl, rfl, rfl, rfl, rfl, rfl, rfl, rfl, rfl, rfl, rfl, rfl, rfl, rfl⟩

@[simp] theorem headerByte_fields (b : Byte) (s : State) :
      (headerByte b s).motorAddr = s.motorAddr ∧
      (headerByte b s).spaceCnt = s.spaceCnt ∧
      (headerByte b s).attempt = s.attempt ∧
      (headerByte b s).cmdOp = s.cmdOp ∧
      (headerByte b s).backoffCnt = s.backoffCnt ∧
      (headerByte b s).tx = s.tx ∧
      (headerByte b s).txIdx = s.txIdx ∧
      (headerByte b s).txSum = s.txSum ∧
      (headerByte b s).rx = storeHeader s.rxIdx (inv b) s.rx ∧
      (headerByte b s).rxIdx = s.rxIdx + 1 ∧
      (headerByte b s).rxSum = s.rxSum + b.setWidth 16 ∧
      (headerByte b s).rxCk = s.rxCk ∧
      (headerByte b s).fsm = s.fsm ∧
      (headerByte b s).res = s.res ∧
      (headerByte b s).txOut = s.txOut ∧
      (headerByte b s).env = s.env ∧
      (headerByte b s).freeCnt = s.freeCnt := by
  refine ⟨rfl, rfl, rfl, rfl, rfl, rfl, rfl, rfl, rfl, rfl, rfl, rfl, rfl, rfl, rfl, rfl, rfl⟩

@[simp] theorem payloadByte_fields (b : Byte) (s : State) :
      (payloadByte b s).motorAddr = s.motorAddr ∧
      (payloadByte b s).spaceCnt = s.spaceCnt ∧
      (payloadByte b s).attempt = s.attempt ∧
      (payloadByte b s).cmdOp = s.cmdOp ∧
      (payloadByte b s).backoffCnt = s.backoffCnt ∧
      (payloadByte b s).tx = s.tx ∧
      (payloadByte b s).txIdx = s.txIdx ∧
      (payloadByte b s).txSum = s.txSum ∧
      (payloadByte b s).rx = { s.rx with payload := s.rx.payload.setIfInBounds (s.rxIdx.val - hdrLen) (inv b) } ∧
      (payloadByte b s).rxIdx = s.rxIdx + 1 ∧
      (payloadByte b s).rxSum = s.rxSum + b.setWidth 16 ∧
      (payloadByte b s).rxCk = s.rxCk ∧
      (payloadByte b s).fsm = s.fsm ∧
      (payloadByte b s).res = s.res ∧
      (payloadByte b s).txOut = s.txOut ∧
      (payloadByte b s).env = s.env ∧
      (payloadByte b s).freeCnt = s.freeCnt := by
  refine ⟨rfl, rfl, rfl, rfl, rfl, rfl, rfl, rfl, rfl, rfl, rfl, rfl, rfl, rfl, rfl, rfl, rfl⟩

@[simp] theorem checksumHigh_fields (b : Byte) (s : State) :
      (checksumHigh b s).motorAddr = s.motorAddr ∧
      (checksumHigh b s).spaceCnt = s.spaceCnt ∧
      (checksumHigh b s).attempt = s.attempt ∧
      (checksumHigh b s).cmdOp = s.cmdOp ∧
      (checksumHigh b s).backoffCnt = s.backoffCnt ∧
      (checksumHigh b s).tx = s.tx ∧
      (checksumHigh b s).txIdx = s.txIdx ∧
      (checksumHigh b s).txSum = s.txSum ∧
      (checksumHigh b s).rx = s.rx ∧
      (checksumHigh b s).rxIdx = s.rxIdx + 1 ∧
      (checksumHigh b s).rxSum = s.rxSum ∧
      (checksumHigh b s).rxCk = u16be b (loByte s.rxCk) ∧
      (checksumHigh b s).fsm = s.fsm ∧
      (checksumHigh b s).res = s.res ∧
      (checksumHigh b s).txOut = s.txOut ∧
      (checksumHigh b s).env = s.env ∧
      (checksumHigh b s).freeCnt = s.freeCnt := by
  refine ⟨rfl, rfl, rfl, rfl, rfl, rfl, rfl, rfl, rfl, rfl, rfl, rfl, rfl, rfl, rfl, rfl, rfl⟩

@[simp] theorem checksumLow_fields (b : Byte) (s : State) :
      (checksumLow b s).motorAddr = s.motorAddr ∧
      (checksumLow b s).spaceCnt = s.spaceCnt ∧
      (checksumLow b s).attempt = s.attempt ∧
      (checksumLow b s).cmdOp = s.cmdOp ∧
      (checksumLow b s).backoffCnt = s.backoffCnt ∧
      (checksumLow b s).tx = s.tx ∧
      (checksumLow b s).txIdx = s.txIdx ∧
      (checksumLow b s).txSum = s.txSum ∧
      (checksumLow b s).rx = s.rx ∧
      (checksumLow b s).rxIdx = s.rxIdx + 1 ∧
      (checksumLow b s).rxSum = s.rxSum ∧
      (checksumLow b s).rxCk = u16be (hiByte s.rxCk) b ∧
      (checksumLow b s).fsm = s.fsm ∧
      (checksumLow b s).res = s.res ∧
      (checksumLow b s).txOut = s.txOut ∧
      (checksumLow b s).env = s.env ∧
      (checksumLow b s).freeCnt = s.freeCnt := by
  refine ⟨rfl, rfl, rfl, rfl, rfl, rfl, rfl, rfl, rfl, rfl, rfl, rfl, rfl, rfl, rfl, rfl, rfl⟩

@[simp] theorem unexpectedMessage_fields (id : Byte) (s : State) :
      (unexpectedMessage id s).motorAddr = s.motorAddr ∧
      (unexpectedMessage id s).spaceCnt = s.spaceCnt ∧
      (unexpectedMessage id s).attempt = s.attempt ∧
      (unexpectedMessage id s).cmdOp = s.cmdOp ∧
      (unexpectedMessage id s).backoffCnt = s.backoffCnt ∧
      (unexpectedMessage id s).tx = s.tx ∧
      (unexpectedMessage id s).txIdx = s.txIdx ∧
      (unexpectedMessage id s).txSum = s.txSum ∧
      (unexpectedMessage id s).rx = s.rx ∧
      (unexpectedMessage id s).rxIdx = s.rxIdx ∧
      (unexpectedMessage id s).rxSum = s.rxSum ∧
      (unexpectedMessage id s).rxCk = s.rxCk ∧
      (unexpectedMessage id s).fsm = .done ∧
      (unexpectedMessage id s).res = { s.res with status := .protocolError, msgid := id } ∧
      (unexpectedMessage id s).txOut = s.txOut ∧
      (unexpectedMessage id s).env = s.env ∧
      (unexpectedMessage id s).freeCnt = s.freeCnt := by
  refine ⟨rfl, rfl, rfl, rfl, rfl, rfl, rfl, rfl, rfl, rfl, rfl, rfl, rfl, rfl, rfl, rfl, rfl⟩

@[simp] theorem enterBackoff_fields (s : State) :
      (enterBackoff s).motorAddr = s.motorAddr ∧
      (enterBackoff s).spaceCnt = s.spaceCnt ∧
      (enterBackoff s).attempt = s.attempt ∧
      (enterBackoff s).cmdOp = s.cmdOp ∧
      (enterBackoff s).backoffCnt = nBackoff ∧
      (enterBackoff s).tx = s.tx ∧
      (enterBackoff s).txIdx = s.txIdx ∧
      (enterBackoff s).txSum = s.txSum ∧
      (enterBackoff s).rx = s.rx ∧
      (enterBackoff s).rxIdx = s.rxIdx ∧
      (enterBackoff s).rxSum = s.rxSum ∧
      (enterBackoff s).rxCk = s.rxCk ∧
      (enterBackoff s).fsm = .backoff ∧
      (enterBackoff s).res = s.res ∧
      (enterBackoff s).txOut = s.txOut ∧
      (enterBackoff s).env = s.env ∧
      (enterBackoff s).freeCnt = s.freeCnt := by
  refine ⟨rfl, rfl, rfl, rfl, rfl, rfl, rfl, rfl, rfl, rfl, rfl, rfl, rfl, rfl, rfl, rfl, rfl⟩

@[simp] theorem dropInput_fields (s : State) :
      (dropInput s).motorAddr = s.motorAddr ∧
      (dropInput s).spaceCnt = s.spaceCnt ∧
      (dropInput s).attempt = s.attempt ∧
      (dropInput s).cmdOp = s.cmdOp ∧
      (dropInput s).backoffCnt = s.backoffCnt ∧
      (dropInput s).tx = s.tx ∧
      (dropInput s).txIdx = s.txIdx ∧
      (dropInput s).txSum = s.txSum ∧
      (dropInput s).rx = s.rx ∧
      (dropInput s).rxIdx = s.rxIdx ∧
      (dropInput s).rxSum = s.rxSum ∧
      (dropInput s).rxCk = s.rxCk ∧
      (dropInput s).fsm = s.fsm ∧
      (dropInput s).res = s.res ∧
      (dropInput s).txOut = s.txOut ∧
      (dropInput s).env = s.env.tail ∧
      (dropInput s).freeCnt = s.freeCnt := by
  refine ⟨rfl, rfl, rfl, rfl, rfl, rfl, rfl, rfl, rfl, rfl, rfl, rfl, rfl, rfl, rfl, rfl, rfl⟩

@[simp] theorem resetRegisters_fields (cfg : BitVec 24) (s : State) :
      (resetRegisters cfg s).motorAddr = addrOfStrap cfg ∧
      (resetRegisters cfg s).spaceCnt = State.reset.spaceCnt ∧
      (resetRegisters cfg s).attempt = State.reset.attempt ∧
      (resetRegisters cfg s).cmdOp = State.reset.cmdOp ∧
      (resetRegisters cfg s).backoffCnt = State.reset.backoffCnt ∧
      (resetRegisters cfg s).tx = State.reset.tx ∧
      (resetRegisters cfg s).txIdx = State.reset.txIdx ∧
      (resetRegisters cfg s).txSum = State.reset.txSum ∧
      (resetRegisters cfg s).rx = State.reset.rx ∧
      (resetRegisters cfg s).rxIdx = State.reset.rxIdx ∧
      (resetRegisters cfg s).rxSum = State.reset.rxSum ∧
      (resetRegisters cfg s).rxCk = State.reset.rxCk ∧
      (resetRegisters cfg s).fsm = State.reset.fsm ∧
      (resetRegisters cfg s).res = State.reset.res ∧
      (resetRegisters cfg s).txOut = s.txOut ∧
      (resetRegisters cfg s).env = s.env ∧
      (resetRegisters cfg s).freeCnt = s.freeCnt := by
  refine ⟨rfl, rfl, rfl, rfl, rfl, rfl, rfl, rfl, rfl, rfl, rfl, rfl, rfl, rfl, rfl, rfl, rfl⟩

/-- BACKOFF_CNT falls only in BACKOFF (R170). -/
theorem tick_backoffCnt (s : State) :
    (tick s).backoffCnt = if s.fsm = .backoff then s.backoffCnt - 1 else s.backoffCnt := by
  cases h : s.fsm <;> simp [tick, h]

/-- What `tickIf` leaves alone: everything but the two counters (R170). -/
@[simp] theorem tickIf_fields (b : Bool) (s : State) :
      (tickIf b s).motorAddr = s.motorAddr ∧
      (tickIf b s).attempt = s.attempt ∧
      (tickIf b s).cmdOp = s.cmdOp ∧
      (tickIf b s).tx = s.tx ∧
      (tickIf b s).txIdx = s.txIdx ∧
      (tickIf b s).txSum = s.txSum ∧
      (tickIf b s).rx = s.rx ∧
      (tickIf b s).rxIdx = s.rxIdx ∧
      (tickIf b s).rxSum = s.rxSum ∧
      (tickIf b s).rxCk = s.rxCk ∧
      (tickIf b s).fsm = s.fsm ∧
      (tickIf b s).res = s.res ∧
      (tickIf b s).txOut = s.txOut ∧
      (tickIf b s).env = s.env ∧
      (tickIf b s).freeCnt = s.freeCnt ∧
      (tickIf b s).input = s.input := by
  cases b <;> refine ⟨rfl, rfl, rfl, rfl, rfl, rfl, rfl, rfl, rfl, rfl, rfl, rfl, rfl, rfl, rfl, rfl⟩

/-- SPACE_CNT falls by one with a Tick, and stops at 0 (R170). -/
@[simp] theorem tickIf_spaceCnt (b : Bool) (s : State) :
    (tickIf b s).spaceCnt = s.spaceCnt - b.toNat := by
  cases b <;> simp [tickIf]

/-- BACKOFF_CNT falls by one with a Tick in BACKOFF (R170). -/
theorem tickIf_backoffCnt (b : Bool) (s : State) :
    (tickIf b s).backoffCnt = s.backoffCnt - (b && decide (s.fsm = .backoff)).toNat := by
  cases b <;> simp only [tickIf, Bool.false_and, Bool.true_and] <;>
    by_cases h : s.fsm = .backoff <;> simp [tick_backoffCnt, h]

/-- The present inputs are a view of `env` alone. -/
theorem input_of_env {s t : State} (h : t.env = s.env) : t.input = s.input := by
  simp [State.input, h]

@[simp] theorem input_cons (s : State) (e : Inputs) (es : List Inputs) :
    ({ s with env := e :: es } : State).input = e := rfl

@[simp] theorem onNext_next (f : State → State) (s : State) : onNext f (.next s) = .next (f s) := rfl

@[simp] theorem onNext_fault (f : State → State) (r : Fault) : onNext f (.fault r) = .fault r := rfl

@[simp] theorem onNext_refused (f : State → State) (r : Refusal) : onNext f (.refused r) = .refused r := rfl

/-- A next state after `onNext` comes from one before it. -/
theorem onNext_eq_next {f : State → State} {o : Host.Outcome State Fault Refusal} {t : State} :
    onNext f o = .next t ↔ ∃ u, o = .next u ∧ f u = t := by
  cases o <;> simp [onNext]

end Sys2Proof.Machine
end

