-- ==== Sys2Proof/Laws/Ops.lean ====
section
/-! SUPPORT. One lemma for each shared operation that can end in more than one way, saying everything it can do; and the frame registers as messages. -/

namespace Sys2Proof.Machine

/-! ### The frame registers as messages -/

@[simp] theorem txMessage_payload_length (t : TxFrame) : t.message.payload.length = t.pcount.val := by
  have := t.pcount.isLt
  simp [TxFrame.message, messageOfOperands]; omega

@[simp] theorem rxMessage_payload_length (r : RxFrame) : r.message.payload.length = r.pcount.val := by
  have := r.pcount.isLt
  simp [RxFrame.message]; omega

/-- The first bytes of an overwritten buffer are the payload. -/
theorem overwrite_take (old : Vector Byte 20) (p : List Byte) (h : p.length ≤ maxPayload) :
    (overwrite old p).toList.take p.length = p := by
  unfold maxPayload at h
  apply List.ext_getElem
  · simp; omega
  · intro i h1 h2
    simp [overwrite, h2]

/-- Loading the transmit registers and reading them back drops only the reserved bits of the combined byte (R27, R111). -/
theorem message_load (t : TxFrame) (id : Byte) (f : Message) (h : f.payload.length ≤ maxPayload) :
    (t.load id f h).message =
      messageOfOperands (ackField f.comb) f.node f.src f.dst f.payload := by
  simp [TxFrame.load, TxFrame.message, overwrite_take t.payload f.payload h]

/-- A message the core builds comes back whole (R193, R210). -/
theorem message_load_operands (t : TxFrame) (id : Byte) (ack : Bool) (node : Byte) (src dst : Addr)
    (p : List Byte) (h : (messageOfOperands ack node src dst p).payload.length ≤ maxPayload) :
    (t.load id (messageOfOperands ack node src dst p) h).message =
      messageOfOperands ack node src dst p := by
  rw [message_load]
  have hp : p.length ≤ maxPayload := h
  simp only [messageOfOperands, ackField_combinedByte ack hp]

/-! ### What the operations can do -/

/-- Building a frame of legal size always succeeds (R193, R210). -/
theorem issueMessage_of_le (id : Byte) (f : Message) (s : State) (h : f.payload.length ≤ maxPayload) :
    issueMessage id f s = { s with tx := s.tx.load id f h, fsm := .space } := by
  simp [issueMessage, h]

/-- A frame that cannot be encoded is a MalformedFrameError (R110, R135). -/
theorem issueMessage_of_gt (id : Byte) (f : Message) (s : State) (h : maxPayload < f.payload.length) :
    issueMessage id f s = raise .malformed s := by
  simp [issueMessage, Nat.not_le.mpr h]

/-- The wire byte of a header or payload index (R136). -/
theorem wireByte_body (id : Byte) (f : Message) (sum : Word16) {i : Nat}
    (h : i < (bodyBytes id f).length) : wireByte id f sum i = some (bodyBytes id f)[i] := by
  have h' : i < (logicalBytes id f).length := by simpa [bodyBytes] using h
  rw [wireByte, dif_pos h']
  simp [bodyBytes]

/-- The first checksum byte (R136). -/
theorem wireByte_high (id : Byte) (f : Message) (sum : Word16) :
    wireByte id f sum (hdrLen + f.payload.length) = some (hiByte sum) := by
  simp [wireByte]

/-- The second checksum byte (R136). -/
theorem wireByte_low (id : Byte) (f : Message) (sum : Word16) :
    wireByte id f sum (hdrLen + 1 + f.payload.length) = some (loByte sum) := by
  have h1 : ¬hdrLen + 1 + f.payload.length < hdrLen + f.payload.length := by omega
  simp [wireByte, h1]

/-- Beyond the frame there is no wire byte (R136). -/
theorem wireByte_none (id : Byte) (f : Message) (sum : Word16) {i : Nat}
    (h : hdrLen + 1 + f.payload.length < i) : wireByte id f sum i = none := by
  have h0 : ¬i < hdrLen + f.payload.length := by omega
  have h1 : ¬i = hdrLen + f.payload.length := by omega
  have h2 : ¬i = hdrLen + 1 + f.payload.length := by omega
  simp [wireByte, h0, h1, h2]

/-- Everything one moment of XMIT can do (R136, R197, R198, R268): a failure, a body byte, the first checksum byte, the last byte, or waiting. -/
theorem sendByte_cases {id : Byte} {f : Message} {s t : State} (h : sendByte id f s = .next t) :
    (s.input.txErr = true ∧ t = raise .transport (spaceArm s)) ∨
    (s.input.txErr = false ∧ s.input.txReady = true ∧
      ∃ hi : s.txIdx.val < (bodyBytes id f).length, t = byteTaken f (bodyBytes id f)[s.txIdx.val] s) ∨
    (s.input.txErr = false ∧ s.input.txReady = true ∧ s.txIdx.val = hdrLen + f.payload.length ∧
      t = byteTaken f (hiByte s.txSum) s) ∨
    (s.input.txErr = false ∧ s.input.txReady = true ∧ s.txIdx.val = hdrLen + 1 + f.payload.length ∧
      t = completeWrite (byteTaken f (loByte s.txSum) s)) ∨
    (s.input.txErr = false ∧ s.input.txReady = false ∧ t = s) := by
  unfold sendByte at h
  split at h
  · rename_i he
    left
    exact ⟨he, by simpa using h.symm⟩
  rename_i he
  have he : s.input.txErr = false := by simpa using he
  split at h
  · rename_i hr
    right
    rcases Nat.lt_trichotomy s.txIdx.val (hdrLen + f.payload.length) with hi | hi | hi
    · have hb : s.txIdx.val < (bodyBytes id f).length := by simpa using hi
      have hn : ¬s.txIdx.val = hdrLen + 1 + f.payload.length := by omega
      simp only [wireByte_body id f s.txSum hb, hn, if_false] at h
      exact Or.inl ⟨he, hr, hb, by simpa using h.symm⟩
    · have hn : ¬s.txIdx.val = hdrLen + 1 + f.payload.length := by omega
      have hw : wireByte id f s.txSum s.txIdx.val = some (hiByte s.txSum) := by
        rw [hi]; exact wireByte_high id f s.txSum
      simp only [hw, hn, if_false] at h
      exact Or.inr (Or.inl ⟨he, hr, hi, by simpa using h.symm⟩)
    · by_cases hl : s.txIdx.val = hdrLen + 1 + f.payload.length
      · have hw : wireByte id f s.txSum s.txIdx.val = some (loByte s.txSum) := by
          rw [hl]; exact wireByte_low id f s.txSum
        simp only [hw] at h
        rw [if_pos hl] at h
        exact Or.inr (Or.inr (Or.inl ⟨he, hr, hl, by simpa using h.symm⟩))
      · simp only [wireByte_none id f s.txSum (show hdrLen + 1 + f.payload.length < s.txIdx.val by omega)] at h
        cases h
  · rename_i hr
    right; right; right; right
    exact ⟨he, by simpa using hr, by simpa using h.symm⟩

/-- The length check in one line (R142). -/
theorem checkLength_cases (s : State) :
    (lenField s.rx.comb < overhead ∧ checkLength s = .ended (raise .malformed s)) ∨
    (overhead ≤ lenField s.rx.comb ∧
      checkLength s = .more { s with rx := { s.rx with pcount := payloadCount s.rx.comb } }) := by
  unfold checkLength
  split
  · exact Or.inl ⟨‹_›, rfl⟩
  · exact Or.inr ⟨by omega, rfl⟩

/-- The comparison in one line (R145). -/
theorem compareChecksum_cases (s : State) :
    (s.rxCk = s.rxSum ∧ compareChecksum s = .frameIn s) ∨
    (s.rxCk ≠ s.rxSum ∧ compareChecksum s = .ended (raise (.checksum s.rxSum s.rxCk) s)) := by
  unfold compareChecksum
  split
  · exact Or.inl ⟨‹_›, rfl⟩
  · exact Or.inr ⟨‹_›, rfl⟩

/-- Everything one received byte can do (R141 to R145). -/
theorem receiveByte_cases (b : Byte) (s : State) :
    (s.rxIdx.val < 8 ∧ receiveByte b s = .more (headerByte b s)) ∨
    (s.rxIdx.val = 8 ∧ receiveByte b s = checkLength (headerByte b s)) ∨
    (hdrLen ≤ s.rxIdx.val ∧ s.rxIdx.val < hdrLen + s.rx.pcount.val ∧
      receiveByte b s = .more (payloadByte b s)) ∨
    (s.rxIdx.val = hdrLen + s.rx.pcount.val ∧ receiveByte b s = .more (checksumHigh b s)) ∨
    (s.rxIdx.val = hdrLen + 1 + s.rx.pcount.val ∧
      receiveByte b s = compareChecksum (checksumLow b s)) ∨
    (hdrLen + 1 + s.rx.pcount.val < s.rxIdx.val ∧ receiveByte b s = .stop .rxIndexBeyondFrame) := by
  unfold receiveByte hdrLen
  split
  · simp [*]
  split
  · simp [*]
  split
  · right; right; left
    exact ⟨by omega, ‹_›, rfl⟩
  split
  · simp [*]
  split
  · simp [*]
  · right; right; right; right; right
    exact ⟨by omega, rfl⟩

/-- Retry or give up (R202). -/
theorem answerNack_cases (code : Byte) (s : State) :
    (s.attempt = 2 ∧ answerNack code s =
      raise (.maxRetries code) { s with res := { s.res with errcode := code } }) ∨
    (s.attempt.val ≤ 1 ∧ answerNack code s =
      enterBackoff { s with res := { s.res with errcode := code } }) := by
  unfold answerNack
  by_cases h : s.attempt = 2
  · exact Or.inl ⟨h, by simp [h]⟩
  · refine Or.inr ⟨?_, by simp [h]⟩
    have := s.attempt.isLt
    have : s.attempt.val ≠ 2 := fun hv => h (Fin.ext hv)
    omega

/-- A payload of five bytes or more is a report with its third byte as percentageClosed, a shorter one is none (R103, R213). -/
theorem positionReport_cases (p : List Byte) :
    (p.length < 5 ∧ positionReport p = none) ∨
    (∃ h : 5 ≤ p.length, ∃ r, positionReport p = some r ∧ r.percentageClosed = p[2]) := by
  match p with
  | [] => simp [positionReport]
  | [_] => simp [positionReport]
  | [_, _] => simp [positionReport]
  | [_, _, _] => simp [positionReport]
  | [_, _, _, _] => simp [positionReport]
  | a :: b :: c :: d :: e :: rest => simp [positionReport]

/-- A position report in answer to QUERY: short, or a position (R213, R214). -/
theorem answerReport_cases (p : List Byte) (s : State) :
    (p.length < 5 ∧ answerReport p s = raise .malformed s) ∨
    (∃ h : 5 ≤ p.length, answerReport p s =
      succeed { s with res := { s.res with pos := callerPosition p[2] } }) := by
  rcases positionReport_cases p with ⟨hl, hn⟩ | ⟨hl, r, hr, hc⟩
  · exact Or.inl ⟨hl, by simp [answerReport, hn]⟩
  · exact Or.inr ⟨hl, by simp [answerReport, hr, hc]⟩

/-- The end of the backoff: the next attempt, or the refusal of a fourth (R204, U11). -/
theorem endBackoff_cases (s : State) :
    (∃ h : s.attempt.val + 1 < 3,
      endBackoff s = .next { s with attempt := ⟨s.attempt.val + 1, h⟩, fsm := .space }) ∨
    (s.attempt = 2 ∧ endBackoff s = .refused .attemptBeyondTwo) := by
  unfold endBackoff
  split
  · exact Or.inl ⟨‹_›, rfl⟩
  · refine Or.inr ⟨Fin.ext ?_, rfl⟩
    have := s.attempt.isLt
    have h2 : (2 : Fin 3).val = 2 := rfl
    omega

/-! ### The two messages the core builds, and the index arithmetic -/

/-- The MOVE the core builds, written out (R101, R193). -/
theorem moveMessage_eq (dst : Addr) (t : Word16) :
    moveMessage dst t = ⟨0x8F, nodeTypeTx, ctrlAddr, dst, [functionCode, loByte t, hiByte t, 0x00]⟩ := by
  have h : combinedByte true 4 = 0x8F := by decide
  simp [moveMessage, messageOfOperands, h]

/-- The QUERY the core builds, written out (R102, R210). -/
theorem queryMessage_eq (dst : Addr) :
    queryMessage dst = ⟨0x0B, nodeTypeTx, ctrlAddr, dst, []⟩ := by
  have h : combinedByte false 0 = 0x0B := by decide
  simp [queryMessage, messageOfOperands, h]

/-- An index below 31 grows without wrapping (R150). -/
theorem index_succ (i : Fin 32) (h : i.val < 31) : (i + 1).val = i.val + 1 := by
  rw [Fin.val_add]
  simp
  omega

/-- The four ways a byte leaves DECODE unfinished (R141 to R144). -/
theorem receiveByte_more {b : Byte} {s u : State} (h : receiveByte b s = .more u) :
    (s.rxIdx.val < 8 ∧ u = headerByte b s) ∨
    (s.rxIdx.val = 8 ∧ overhead ≤ lenField s.rx.comb ∧
      u = { headerByte b s with
        rx := { (headerByte b s).rx with pcount := payloadCount s.rx.comb } }) ∨
    (hdrLen ≤ s.rxIdx.val ∧ s.rxIdx.val < hdrLen + s.rx.pcount.val ∧ u = payloadByte b s) ∨
    (s.rxIdx.val = hdrLen + s.rx.pcount.val ∧ u = checksumHigh b s) := by
  rcases receiveByte_cases b s with ⟨hi, hc⟩ | ⟨hi, hc⟩ | ⟨h9, hi, hc⟩ | ⟨hi, hc⟩ | ⟨hi, hc⟩ | ⟨hi, hc⟩ <;>
    rw [hc] at h
  · cases h
    exact Or.inl ⟨hi, rfl⟩
  · rcases checkLength_cases (headerByte b s) with ⟨hl, hk⟩ | ⟨hl, hk⟩ <;> rw [hk] at h <;> cases h
    have hcomb : (headerByte b s).rx.comb = s.rx.comb := by simp [hi, storeHeader]
    rw [hcomb] at hl ⊢
    exact Or.inr (Or.inl ⟨hi, hl, rfl⟩)
  · cases h
    exact Or.inr (Or.inr (Or.inl ⟨h9, hi, rfl⟩))
  · cases h
    exact Or.inr (Or.inr (Or.inr ⟨hi, rfl⟩))
  · rcases compareChecksum_cases (checksumLow b s) with ⟨hl, hk⟩ | ⟨hl, hk⟩ <;> rw [hk] at h <;> cases h
  · cases h

/-- While DECODE goes on only its own registers move. -/
theorem receiveByte_more_frame {b : Byte} {s u : State} (h : receiveByte b s = .more u) :
    u = { s with rx := u.rx, rxIdx := u.rxIdx, rxSum := u.rxSum, rxCk := u.rxCk } := by
  rcases receiveByte_more h with ⟨_, rfl⟩ | ⟨_, _, rfl⟩ | ⟨_, _, rfl⟩ | ⟨_, rfl⟩ <;> rfl

end Sys2Proof.Machine
end

