-- ==== Sys2Proof/Laws/Step.lean ====
section
/-! SUPPORT. What a step can be, said once (a timer transition, a reset edge, or the event of a port), what each state's event can be, and the laws of runs. -/

namespace Sys2Proof.Machine

/-! ### One step -/

/-- A transition happens when its timer has run out and it does not lag. -/
theorem timerDone_iff (s : State) :
    timerDone s = true ↔
      ((s.fsm = .space ∧ s.spaceCnt = 0) ∨ (s.fsm = .backoff ∧ s.backoffCnt = 0)) ∧ s.input.lag = false := by
  unfold timerDone timerExpired
  cases s.fsm <;> simp

/-- A lagging moment has no transition of the core's own (R306). -/
theorem timerDone_lag {s : State} (h : s.input.lag = true) : timerDone s = false := by
  simp [timerDone, h]

/-- The four kinds of step: start of a transmission (R196), end of a backoff (R204), reset (R44), a port event after its Tick (R170). -/
theorem step_cases {s t : State} (h : step s = .next t) :
    (s.fsm = .space ∧ s.spaceCnt = 0 ∧ timerDone s = true ∧ t = startTransmission s) ∨
    (s.fsm = .backoff ∧ s.backoffCnt = 0 ∧ timerDone s = true ∧
      ∃ ha : s.attempt.val + 1 < 3, t = { s with attempt := ⟨s.attempt.val + 1, ha⟩, fsm := .space }) ∨
    (timerDone s = false ∧ s.input.rst = true ∧
      t = dropInput (resetRegisters s.input.cfgAddr s)) ∨
    (timerDone s = false ∧ s.input.rst = false ∧
      ∃ u, portEvent (tickIf s.input.tick s) = .next u ∧ t = dropInput u) := by
  unfold step sequencerStep at h
  split at h
  · rename_i hd
    obtain ⟨hx, -⟩ := (timerDone_iff s).mp hd
    rcases hx with ⟨hf, hc⟩ | ⟨hf, hc⟩ <;> simp only [timerEvent, hf] at h
    · exact Or.inl ⟨hf, hc, hd, by simpa using h.symm⟩
    · rcases endBackoff_cases s with ⟨ha, he⟩ | ⟨_, he⟩
      · rw [he] at h
        exact Or.inr (Or.inl ⟨hf, hc, hd, ha, by simpa using h.symm⟩)
      · rw [he] at h
        cases h
  · rename_i hd
    have hd : timerDone s = false := by simpa using hd
    right; right
    unfold moment at h
    split at h
    · rename_i hr
      exact Or.inl ⟨hd, hr, by simpa using h.symm⟩
    · rename_i hr
      obtain ⟨u, hu, hut⟩ := onNext_eq_next.mp h
      exact Or.inr ⟨hd, by simpa using hr, u, hu, hut.symm⟩

/-- A reset edge (R44, R255). -/
theorem step_reset {s : State} (hd : timerDone s = false) (hr : s.input.rst = true) :
    step s = .next (dropInput (resetRegisters s.input.cfgAddr s)) := by
  simp [step, sequencerStep, moment, hd, hr]

/-- A moment without reset (R170). -/
theorem step_event {s : State} (hd : timerDone s = false) (hr : s.input.rst = false) :
    step s = onNext dropInput (portEvent (tickIf s.input.tick s)) := by
  simp [step, sequencerStep, moment, hd, hr]

/-- A timer transition (R196, R204). -/
theorem step_timer {s : State} (hd : timerDone s = true) : step s = timerEvent s := by
  simp [step, sequencerStep, hd]

@[simp] theorem timerDone_idle {s : State} (h : s.fsm = .idle) : timerDone s = false := by
  simp [timerDone, timerExpired, h]

@[simp] theorem timerDone_xmit {s : State} (h : s.fsm = .xmit) : timerDone s = false := by
  simp [timerDone, timerExpired, h]

@[simp] theorem timerDone_await {s : State} (h : s.fsm = .await) : timerDone s = false := by
  simp [timerDone, timerExpired, h]

@[simp] theorem timerDone_done {s : State} (h : s.fsm = .done) : timerDone s = false := by
  simp [timerDone, timerExpired, h]

/-! ### The event of each state -/

/-- The frame in the transmit registers is handed over by one rule, whatever its ID (R136). -/
theorem transmitEvent_eq {s : State} (h : s.fsm = .xmit) :
    transmitEvent s = sendByte s.tx.msgid s.tx.message s := by
  unfold transmitEvent
  split
  · rename_i hm
    simp [exec, execMove, h, hm]
  split
  · rename_i hm
    simp [exec, execQuery, h, hm]
  · rfl

/-- The message map on a known ID (R106). -/
theorem messageOf_ack (f : Message) : messageOf idAck f = .ok (.ack f) := rfl
theorem messageOf_nack (f : Message) : messageOf idNack f = .ok (.nack f) := rfl
theorem messageOf_posreport (f : Message) : messageOf idPosreport f = .ok (.posreport f) := rfl
theorem messageOf_move (f : Message) : messageOf idMove f = .ok (.move f) := rfl
theorem messageOf_query (f : Message) : messageOf idQuery f = .ok (.query f) := rfl

/-- Every dispatch in AWAIT: ACK, NACK and POSREPORT to the command that expects them, everything else a ProtocolError naming the ID (R200 to R214, R109). -/
theorem dispatchResponse_cases {s : State} (h : s.fsm = .await) :
    (s.cmdOp = 0 ∧ s.rx.msgid = idAck ∧ dispatchResponse s = .next (succeed s)) ∨
    (s.cmdOp = 0 ∧ s.rx.msgid = idNack ∧
      dispatchResponse s = .next (answerNack (nackCode s.rx.message.payload) s)) ∨
    (s.cmdOp = 1 ∧ s.rx.msgid = idPosreport ∧
      dispatchResponse s = .next (answerReport s.rx.message.payload s)) ∨
    ((s.cmdOp = 0 → s.rx.msgid ≠ idAck ∧ s.rx.msgid ≠ idNack) ∧ (s.cmdOp = 1 → s.rx.msgid ≠ idPosreport) ∧
      dispatchResponse s = .next (unexpectedMessage s.rx.msgid s)) := by
  have hop : s.cmdOp = 0 ∨ s.cmdOp = 1 := by
    have := s.cmdOp.isLt
    rcases Nat.lt_or_ge s.cmdOp.toNat 1 with h0 | h1
    · exact Or.inl (BitVec.eq_of_toNat_eq (by simp; omega))
    · exact Or.inr (BitVec.eq_of_toNat_eq (by simp; omega))
  have h01 : (0 : BitVec 1) ≠ 1 := by decide
  have hid : idAck ≠ idNack ∧ idNack ≠ idPosreport ∧ idAck ≠ idPosreport ∧ idMove ≠ idAck ∧
      idMove ≠ idNack ∧ idMove ≠ idPosreport ∧ idQuery ≠ idAck ∧ idQuery ≠ idNack ∧
      idQuery ≠ idPosreport := by decide
  obtain ⟨hAN, hNP, hAP, hMA, hMN, hMP, hQA, hQN, hQP⟩ := hid
  unfold dispatchResponse messageOf
  by_cases hm : s.rx.msgid = idMove
  · simp [hm, exec, execMove, h, hMA, hMN, hMP]
  by_cases hq : s.rx.msgid = idQuery
  · have : idQuery ≠ idMove := by decide
    simp [hq, this, exec, execQuery, h, hQA, hQN, hQP]
  by_cases hp : s.rx.msgid = idPosreport
  · have h1 : idPosreport ≠ idMove := by decide
    have h2 : idPosreport ≠ idQuery := by decide
    rcases hop with ho | ho
    · simp [hp, h1, h2, exec, execPosreport, h, ho, hAP.symm, hNP.symm]
    · simp [hp, h1, h2, exec, execPosreport, h, ho]
  by_cases hn : s.rx.msgid = idNack
  · have h1 : idNack ≠ idMove := by decide
    have h2 : idNack ≠ idQuery := by decide
    rcases hop with ho | ho
    · simp [hn, h1, h2, hNP, exec, execNack, h, ho]
    · simp [hn, h1, h2, hNP, exec, execNack, h, ho]
  by_cases ha : s.rx.msgid = idAck
  · have h1 : idAck ≠ idMove := by decide
    have h2 : idAck ≠ idQuery := by decide
    rcases hop with ho | ho
    · simp [ha, h1, h2, hAP, hAN, exec, execAck, h, ho]
    · simp [ha, h1, h2, hAP, hAN, exec, execAck, h, ho]
  · simp [hm, hq, hp, hn, ha]

/-- The acceptance of a host command (R192, R193, R210). -/
theorem acceptance_cases {s t : State} (hf : s.fsm = .idle)
    (h : exec (decodeHostCmd s.input.cmdOp s.input.cmdPos) s = .next t) :
    (s.input.cmdOp = 0 ∧ positionLegal s.input.cmdPos = false ∧
      t = raise .validation (acceptCommand 0 s)) ∨
    (s.input.cmdOp = 0 ∧ positionLegal s.input.cmdPos = true ∧
      t = issueMessage idMove (moveMessage s.motorAddr (deviceTarget s.input.cmdPos)) (acceptCommand 0 s)) ∨
    (s.input.cmdOp = 1 ∧
      t = issueMessage idQuery (queryMessage s.motorAddr) (acceptCommand 1 s)) := by
  unfold decodeHostCmd at h
  split at h
  · rename_i ho
    simp only [exec, execSetPosition, hf, if_true] at h
    split at h
    · exact Or.inr (Or.inl ⟨ho, ‹_›, by simpa using h.symm⟩)
    · exact Or.inl ⟨ho, by simpa using ‹¬positionLegal s.input.cmdPos = true›, by simpa using h.symm⟩
  · rename_i ho
    simp only [exec, execGetPosition, hf, if_true] at h
    refine Or.inr (Or.inr ⟨?_, by simpa using h.symm⟩)
    have := s.input.cmdOp.isLt
    refine BitVec.eq_of_toNat_eq ?_
    have h0 : s.input.cmdOp.toNat ≠ 0 := fun hz => ho (BitVec.eq_of_toNat_eq (by simpa using hz))
    simp; omega

/-- Everything one moment of AWAIT can do: a failure, one of the results of a byte, waiting (R41, R199, R268). -/
theorem awaitEvent_cases {s t : State} (h : awaitEvent s = .next t) :
    (s.input.rxErr = true ∧ t = raise .transport s) ∨
    (s.input.rxErr = false ∧ s.input.rxValid = true ∧ receiveByte s.input.rxData s = .more t) ∨
    (s.input.rxErr = false ∧ s.input.rxValid = true ∧ receiveByte s.input.rxData s = .ended t) ∨
    (s.input.rxErr = false ∧ s.input.rxValid = true ∧
      ∃ u, receiveByte s.input.rxData s = .frameIn u ∧ dispatchResponse u = .next t) ∨
    (s.input.rxErr = false ∧ s.input.rxValid = false ∧ t = s) := by
  unfold awaitEvent at h
  split at h
  · exact Or.inl ⟨‹_›, by simpa using h.symm⟩
  rename_i he
  have he : s.input.rxErr = false := by simpa using he
  split at h
  · rename_i hv
    right
    cases hb : receiveByte s.input.rxData s <;> simp only [hb, afterByte] at h
    case more u => exact Or.inl ⟨he, hv, by simpa using h⟩
    case ended u => exact Or.inr (Or.inl ⟨he, hv, by simpa using h⟩)
    case frameIn u => exact Or.inr (Or.inr (Or.inl ⟨he, hv, u, rfl, h⟩))
    case stop r => cases h
  · rename_i hv
    exact Or.inr (Or.inr (Or.inr (Or.inr ⟨he, by simpa using hv, by simpa using h.symm⟩)))

/-! ### Runs -/

@[simp] theorem runFor_zero (s : State) : runFor 0 s = .next s := rfl

/-- A run of `k + 1` steps is a step and a run of `k` (any outcome of the rest). -/
theorem runFor_succ_of_step {k : Nat} {s t : State} (h : step s = .next t) :
    runFor (k + 1) s = runFor k t := by
  simp [runFor, h]

/-- A completed run of `k + 1` steps begins with a step. -/
theorem runFor_succ_next {k : Nat} {s t : State} (h : runFor (k + 1) s = .next t) :
    ∃ u, step s = .next u ∧ runFor k u = .next t := by
  unfold runFor at h
  split at h
  · exact ⟨_, ‹_›, h⟩
  · cases h
  · cases h

/-- Runs join. -/
theorem runFor_add {j k : Nat} {s t : State} (h : runFor j s = .next t) :
    runFor (j + k) s = runFor k t := by
  induction j generalizing s with
  | zero =>
    cases h
    simp
  | succ j ih =>
    obtain ⟨u, hu, hr⟩ := runFor_succ_next h
    rw [Nat.succ_add, runFor_succ_of_step hu, ih hr]

end Sys2Proof.Machine
end

