-- ==== Sys2Proof/Tests/Slice0.lean ====
section
/-! SUPPORT. The model's own tests: the vectors of 95_test_vectors.md (cited by their ids; expected values are that file's), the refusals of WellFormed, one-step tests, the host's table words, and for every statement with hypotheses a witness that meets them. -/

namespace Sys2Proof.Tests

open Sys2Proof Sys2Proof.Machine

/-! ### Helpers -/

/-- The outcome is a next state with the property. -/
def after (p : State → Bool) : Host.Outcome State Fault Refusal → Bool
  | .next s => p s
  | .fault _ => false
  | .refused _ => false

/-- The motor address of the vectors, internal order (S1). -/
def motor : Addr := ⟨0x0C, 0x85, 0xAE⟩

/-- The device's address as it writes it, and the controller. -/
def device : Addr := ⟨0xAE, 0x85, 0x0C⟩

/-- Right after reset with the vectors' address, some spacing left. -/
def base : State := { State.reset with motorAddr := motor, spaceCnt := 40 }

/-- A moment in the same clock period. -/
def now : Inputs := { quietInputs with tick := false }

def takes : Inputs := { quietInputs with txReady := true }

def gives (b : Byte) : Inputs := { quietInputs with rxValid := true, rxData := b }

/-- Answers every wait: the byte is taken, a read fails. -/
def answering : Inputs := { quietInputs with txReady := true, rxErr := true }

/-- The transmit registers of `SET_POSITION 5` (V1). -/
def moveTx : TxFrame :=
  ⟨0x03, true, 4, 0x00, ctrlAddr, motor, (Vector.replicate 20 0).set 0 0x04 |>.set 1 0x5F⟩

/-- SET_POSITION 5 in XMIT at index `i`. -/
def sending (i : Fin 32) (sum : Word16) (e : Inputs) : State :=
  { base with fsm := .xmit, tx := moveTx, txIdx := i, txSum := sum, spaceCnt := 0, env := [e] }

/-- A call in AWAIT with DECODE begun. -/
def awaiting (op : BitVec 1) (a : Fin 3) (es : List Inputs) : State :=
  { base with fsm := .await, cmdOp := op, attempt := a, env := es }

/-- The frames of K1, K2, K4, K5, K8. -/
def ackK1 : Message := ⟨0x0B, 0x70, device, ctrlAddr, []⟩
def nackK2 : Message := ⟨0x0C, 0x70, device, ctrlAddr, [0x10]⟩
def nackK4 : Message := ⟨0x0B, 0x70, device, ctrlAddr, []⟩
def reportK5 : Message := ⟨0x10, 0x70, device, ctrlAddr, [0x64, 0x00, 0x16, 0xFF, 0x00]⟩
def reportK8 : Message := ⟨0x10, 0x70, device, ctrlAddr, [0x00, 0x00, 0xFF, 0x00, 0x00]⟩
def reportK9 : Message := ⟨0x0F, 0x70, device, ctrlAddr, [0x00, 0x00, 0x16, 0x00]⟩
def reportK10 : Message := ⟨0x11, 0x70, device, ctrlAddr, [0x64, 0x00, 0x16, 0xFF, 0x00, 0xAA]⟩
def moveV1 : Message := ⟨0x8F, 0x00, ctrlAddr, motor, [0x04, 0x5F, 0x00, 0x00]⟩
def queryV5 : Message := ⟨0x0B, 0x00, ctrlAddr, motor, []⟩

/-- A payload too long for the 5-bit length field. -/
def tooLong : Message := ⟨0x1F, 0x00, ctrlAddr, motor, List.replicate 21 0⟩

/-! ### WellFormed: each check refuses an ill-formed term -/

theorem test_wf_payload_above_20 : Instr.wf (.move tooLong) = false := by decide

theorem test_wf_length_field_above_payload : Instr.wf (.ack { ackK1 with comb := 0x0C }) = false := by decide

theorem test_wf_length_field_below_11 : Instr.wf (.nack { nackK4 with comb := 0x0A }) = false := by decide

theorem test_wf_query_with_payload_of_move :
    Instr.wf (.query { queryV5 with payload := [0x04] }) = false := by decide

theorem test_wf_posreport : Instr.wf (.posreport reportK5) = true := by decide

theorem test_isMove_wrong_target : moveV1.isMove motor 94 = false := by decide

theorem test_isQuery_ack_bit_set : Message.isQuery { queryV5 with comb := 0x8B } motor = false := by decide

/-! ### Decoding: words written out from the encoding -/

/-- V1. -/
theorem test_decode_move :
    decode (.frame [0xFC, 0x70, 0xFF, 0x80, 0x80, 0x80, 0xF3, 0x7A, 0x51, 0xFB, 0xA0, 0xFF, 0xFF, 0x09, 0x42]) =
      .ok (.move moveV1) := by decide

/-- V3. -/
theorem test_decode_move_target_0 :
    decode (.frame [0xFC, 0x70, 0xFF, 0x80, 0x80, 0x80, 0xF3, 0x7A, 0x51, 0xFB, 0xFF, 0xFF, 0xFF, 0x09, 0xA1]) =
      .ok (.move { moveV1 with payload := [0x04, 0x00, 0x00, 0x00] }) := by decide

/-- V5. -/
theorem test_decode_query :
    decode (.frame [0xF3, 0xF4, 0xFF, 0x80, 0x80, 0x80, 0xF3, 0x7A, 0x51, 0x06, 0x24]) =
      .ok (.query queryV5) := by decide

/-- K5, the source's vector with its checksum corrected (C1). -/
theorem test_decode_posreport :
    decode (.frame [0xF2, 0xEF, 0x8F, 0x51, 0x7A, 0xF3, 0x80, 0x80, 0x80, 0x9B, 0xFF, 0xE9, 0x00, 0xFF, 0x09, 0x30]) =
      .ok (.posreport reportK5) := by decide

/-- K2. -/
theorem test_decode_nack :
    decode (.frame [0x90, 0xF3, 0x8F, 0x51, 0x7A, 0xF3, 0x80, 0x80, 0x80, 0xEF, 0x06, 0x3F]) =
      .ok (.nack nackK2) := by decide

/-- K1. -/
theorem test_decode_ack :
    decode (.frame [0x80, 0xF4, 0x8F, 0x51, 0x7A, 0xF3, 0x80, 0x80, 0x80, 0x05, 0x41]) =
      .ok (.ack ackK1) := by decide

/-- K12: the reserved bits 6:5 are kept and change nothing else. -/
theorem test_decode_ack_reserved_bits :
    decode (.frame [0x80, 0x94, 0x8F, 0x51, 0x7A, 0xF3, 0x80, 0x80, 0x80, 0x04, 0xE1]) =
      .ok (.ack { ackK1 with comb := 0x6B }) := by decide

/-- R107: `cmd_op` 0, `cmd_pos` 0xFFFF. -/
theorem test_decode_setPosition : decode (.hostcmd 0 0xFFFF) = .ok (.setPosition (BitVec.ofInt 16 (-1))) := by
  decide

/-- R107: `cmd_op` 1, `cmd_pos` ignored. -/
theorem test_decode_getPosition : decode (.hostcmd 1 0xFFFF) = .ok .getPosition := by decide

/-- K11: an ID of no row is rejected by name. -/
theorem test_decode_unknown_id :
    decode (.frame [0xBD, 0xF4, 0x8F, 0x51, 0x7A, 0xF3, 0x80, 0x80, 0x80, 0x05, 0x7E]) =
      .error (.unknownMessage 0x42) := by decide

/-- E1: LEN 10. -/
theorem test_decode_malformed :
    decode (.frame [0x80, 0xF5, 0x8F, 0x51, 0x7A, 0xF3, 0x80, 0x80, 0x80, 0x05, 0x40]) =
      .error (.codec .malformed) := by decide

/-- E3, E4: the stream ends early. -/
theorem test_decode_short :
    decode (.frame [0x80, 0xF4, 0x8F, 0x51, 0x7A, 0xF3]) = .error (.codec .transport) ∧
    decode (.frame []) = .error (.codec .transport) := by decide

/-- E4b: failure at the second checksum byte, no comparison; E4c: failure at header byte 8, not malformed. -/
theorem test_decode_failures_inside :
    decodeStream ([0x90, 0xF3, 0x8F, 0x51, 0x7A, 0xF3, 0x80, 0x80, 0x80, 0xEF, 0x06].map .byte ++ [.failure]) =
      .error .transport ∧
    decodeStream ([0x80, 0xF5, 0x8F, 0x51, 0x7A, 0xF3, 0x80, 0x80].map .byte ++ [.failure]) =
      .error .transport := by decide

/-- E7, the source's vector as printed (C1). -/
theorem test_decode_as_printed :
    decode (.frame [0xF2, 0xEF, 0x8F, 0x51, 0x7A, 0xF3, 0x80, 0x80, 0x80, 0x9B, 0xFF, 0xE9, 0x00, 0xFF, 0x08, 0x31]) =
      .error (.codec (.checksum 0x0930 0x0831)) := by decide

/-- E8. -/
theorem test_decode_checksum :
    decode (.frame [0x80, 0xF4, 0x8F, 0x51, 0x7A, 0xF3, 0x80, 0x80, 0x80, 0x05, 0x40]) =
      .error (.codec (.checksum 0x0541 0x0540)) := by decide

/-- E9: two summed bytes swapped pass. -/
theorem test_decode_swapped :
    decode (.frame [0x90, 0xF3, 0x8F, 0x7A, 0x51, 0xF3, 0x80, 0x80, 0x80, 0xEF, 0x06, 0x3F]) =
      .ok (.nack { nackK2 with src := ⟨0x85, 0xAE, 0x0C⟩ }) := by decide

theorem test_decode_trailing :
    decode (.frame [0x80, 0xF4, 0x8F, 0x51, 0x7A, 0xF3, 0x80, 0x80, 0x80, 0x05, 0x41, 0x00]) =
      .error .trailingBytes := by decide

/-! ### Encoding and the codec's arithmetic -/

/-- V2. -/
theorem test_encode_move_target_100 :
    encodeFrame 0x03 true 0x00 ctrlAddr motor [0x04, 0x64, 0x00, 0x00] =
      .ok [0xFC, 0x70, 0xFF, 0x80, 0x80, 0x80, 0xF3, 0x7A, 0x51, 0xFB, 0x9B, 0xFF, 0xFF, 0x09, 0x3D] := by
  decide

/-- V4. -/
theorem test_encode_move_target_50 :
    encode (.move { moveV1 with payload := [0x04, 0x32, 0x00, 0x00] }) =
      .frame [0xFC, 0x70, 0xFF, 0x80, 0x80, 0x80, 0xF3, 0x7A, 0x51, 0xFB, 0xCD, 0xFF, 0xFF, 0x09, 0x6F] := by
  decide

/-- V5. -/
theorem test_encode_query :
    encode (.query queryV5) =
      .frame [0xF3, 0xF4, 0xFF, 0x80, 0x80, 0x80, 0xF3, 0x7A, 0x51, 0x06, 0x24] := by decide

/-- K8. -/
theorem test_encode_posreport :
    encode (.posreport reportK8) =
      .frame [0xF2, 0xEF, 0x8F, 0x51, 0x7A, 0xF3, 0x80, 0x80, 0x80, 0xFF, 0xFF, 0x00, 0xFF, 0xFF, 0x09, 0xAA] := by
  decide

/-- V6, the longest frame, and V7. -/
theorem test_encode_longest :
    encodeFrame 0x55 true 0xAA ⟨0x01, 0x02, 0x03⟩ ⟨0x04, 0x05, 0x06⟩ (List.replicate 20 0x00) =
      .ok ([0xAA, 0x60, 0x55, 0xFE, 0xFD, 0xFC, 0xFB, 0xFA, 0xF9] ++ List.replicate 20 0xFF ++ [0x1B, 0x30]) ∧
    encodeFrame 0x55 true 0xAA ⟨0x01, 0x02, 0x03⟩ ⟨0x04, 0x05, 0x06⟩ (List.replicate 21 0x00) =
      .error .malformed := by decide

/-- The INV table. -/
theorem test_inv :
    [0x03, 0x8F, 0x00, 0x7F, 0x0C, 0x85, 0xAE, 0x5A].map inv =
      [0xFC, 0x70, 0xFF, 0x80, 0xF3, 0x7A, 0x51, 0xA5] := by decide

/-- The CHECKSUM table: the largest, the smallest and the 9-byte sum. -/
theorem test_checksum :
    checksum ([0xFF, 0xE0] ++ List.replicate 27 0xFF) = 0x1CC4 ∧
    checksum ([0x00, 0x60] ++ List.replicate 27 0x00) = 0x0060 ∧
    checksum [0x00, 0x74, 0x00, 0x00, 0x00, 0x00, 0x00, 0x00, 0x00] = 0x0074 := by decide

/-- The validation table. -/
theorem test_positionLegal :
    [0x0000, 0x0005, 0x0032, 0x0064, 0x0065, 0xFFFF, 0x8000, 0x7FFF].map positionLegal =
      [true, true, true, true, false, false, false, false] := by decide

/-- The mapping table. -/
theorem test_deviceTarget :
    [0x0000, 0x0005, 0x0032, 0x0064].map deviceTarget = [100, 95, 50, 0] := by decide

/-- R191: 22, 0, 100, 255. -/
theorem test_callerPosition :
    [0x16, 0x00, 0x64, 0xFF].map callerPosition = [78, 100, 0, 0xFF65] := by decide

/-! ### One step of each instruction -/

/-- SET_POSITION 5 builds V1's frame (R193). -/
theorem test_setPosition_5 :
    after (fun t => t.fsm = .space ∧ t.cmdOp = 0 ∧ t.tx.msgid = 0x03 ∧ t.tx.message = moveV1 ∧ t.spaceCnt = 40)
      (exec (.setPosition 5) base) = true := by decide

/-- P4: SET_POSITION 101. -/
theorem test_setPosition_101 :
    after (fun t => t.fsm = .done ∧ t.res.status = .validationError ∧ t.tx = base.tx ∧ t.spaceCnt = 40)
      (exec (.setPosition 0x0065) base) = true := by decide

theorem test_getPosition :
    after (fun t => t.fsm = .space ∧ t.cmdOp = 1 ∧ t.tx.msgid = 0x0C ∧ t.tx.message = queryV5)
      (exec .getPosition base) = true := by decide

/-- V1's sum after its first byte, 00FC. -/
theorem test_move_first_byte :
    after (fun t => t.txOut = [0xFC] ∧ t.txSum = 0x00FC ∧ t.txIdx = 1)
      (exec (.move moveV1) (sending 0 0 takes)) = true := by decide

/-- V1's last byte, 42. -/
theorem test_move_last_byte :
    after (fun t => t.txOut = [0x42] ∧ t.fsm = .await ∧ t.rxIdx = 0)
      (exec (.move moveV1) (sending 14 0x0942 takes)) = true := by decide

/-- V5's first checksum byte, 06. -/
theorem test_query_checksum_byte :
    after (fun t => t.txOut = [0x06] ∧ t.txSum = 0x0624 ∧ t.fsm = .xmit)
      (exec (.query queryV5) (sending 9 0x0624 takes)) = true := by decide

/-- R205: a QUERY that comes back. -/
theorem test_query_received :
    after (fun t => t.fsm = .done ∧ t.res.status = .protocolError ∧ t.res.msgid = 0x0C)
      (exec (.query queryV5) (awaiting 0 0 [])) = true := by decide

/-- X6. -/
theorem test_posreport :
    after (fun t => t.fsm = .done ∧ t.res.status = .ok ∧ t.res.pos = 78)
      (exec (.posreport reportK5) (awaiting 1 0 [])) = true := by decide

/-- X9, X10, X11, E6c. -/
theorem test_posreport_corners :
    after (fun t => t.res.pos = 0xFF65) (exec (.posreport reportK8) (awaiting 1 0 [])) = true ∧
    after (fun t => t.res.status = .malformedFrameError) (exec (.posreport reportK9) (awaiting 1 0 [])) = true ∧
    after (fun t => t.res.pos = 78) (exec (.posreport reportK10) (awaiting 1 0 [])) = true ∧
    after (fun t => t.res.status = .protocolError ∧ t.res.msgid = 0x0D)
      (exec (.posreport reportK5) (awaiting 0 0 [])) = true := by decide

/-- X2, X3. -/
theorem test_nack :
    after (fun t => t.fsm = .backoff ∧ t.res.errcode = 0x10 ∧ t.attempt = 0)
      (exec (.nack nackK2) (awaiting 0 0 [])) = true ∧
    after (fun t => t.fsm = .done ∧ t.res.status = .maxRetriesExceededError ∧ t.res.errcode = 0x10)
      (exec (.nack nackK2) (awaiting 0 2 [])) = true := by decide

/-- X4, E6b. -/
theorem test_nack_corners :
    after (fun t => t.res.status = .maxRetriesExceededError ∧ t.res.errcode = 0xFF)
      (exec (.nack nackK4) (awaiting 0 2 [])) = true ∧
    after (fun t => t.res.status = .protocolError ∧ t.res.msgid = 0x6F ∧ t.res.errcode = 0)
      (exec (.nack nackK2) (awaiting 1 0 [])) = true := by decide

/-- X1, X5, E6. -/
theorem test_ack :
    after (fun t => t.fsm = .done ∧ t.res.status = .ok) (exec (.ack ackK1) (awaiting 0 2 [])) = true ∧
    after (fun t => t.res.status = .ok) (exec (.ack { ackK1 with comb := 0x6B }) (awaiting 0 1 [])) = true ∧
    after (fun t => t.res.status = .protocolError ∧ t.res.msgid = 0x7F)
      (exec (.ack ackK1) (awaiting 1 0 [])) = true := by decide

/-! ### One step of the machine -/

/-- S1: the strap is reversed, once, and the call in progress is gone. -/
theorem test_reset_edge :
    after (fun t => t.motorAddr = motor ∧ t.fsm = .idle ∧ t.txOut = [0xFC])
      (step { sending 1 0xFC { now with rst := true, cfgAddr := 0xAE850C, txReady := true } with
        txOut := [0xFC] }) = true := by decide

/-- The scheduler table: SPACE_CNT 3 reads 2, 1, 0, 0. -/
theorem test_tick :
    (tick { base with spaceCnt := 3 }).spaceCnt = 2 ∧ (tick { base with spaceCnt := 0 }).spaceCnt = 0 ∧
    (tick { base with fsm := .await, backoffCnt := 5 }).backoffCnt = 5 ∧
    (tick { base with fsm := .backoff, backoffCnt := 2 }).backoffCnt = 1 := by decide

/-- The scheduler table: with SPACE_CNT 0, SPACE leads to XMIT with no Tick; with 1 left it does not. -/
theorem test_spaceWait :
    after (fun t => t.fsm = .xmit) (step { base with fsm := .space, spaceCnt := 0 }) = true ∧
    after (fun t => t.fsm = .space ∧ t.spaceCnt = 0) (step { base with fsm := .space, spaceCnt := 1 }) = true := by
  decide

/-- R306: a moment that lets the due transition lag passes, and reset is not kept waiting by it. -/
theorem test_lag :
    after (fun t => t.fsm = .space ∧ t.spaceCnt = 0 ∧ t.env = [])
      (step { base with fsm := .space, spaceCnt := 0, env := [{ quietInputs with lag := true }] }) = true ∧
    after (fun t => t.fsm = .backoff ∧ t.spaceCnt = 39)
      (step { base with fsm := .backoff, env := [{ quietInputs with lag := true }] }) = true ∧
    after (fun t => t.fsm = .idle)
      (step { base with fsm := .backoff, env := [{ quietInputs with lag := true, rst := true }] }) = true := by
  decide

/-- R204. -/
theorem test_backoff_end :
    after (fun t => t.fsm = .space ∧ t.attempt = 1 ∧ t.tx = moveTx)
      (step { base with fsm := .backoff, backoffCnt := 0, tx := moveTx }) = true := by decide

/-- P6, last line: the write fails at TX_IDX 4; R41: the failure beats a ready transport. -/
theorem test_write_failure :
    after (fun t => t.fsm = .done ∧ t.res.status = .transportError ∧ t.txOut = [] ∧ t.txIdx = 4)
      (step (sending 4 0x036B { takes with txErr := true })) = true := by decide

/-- E4: a read failure; a delivered byte does not save it. -/
theorem test_read_failure :
    after (fun t => t.fsm = .done ∧ t.res.status = .transportError ∧ t.rxIdx = 0)
      (step (awaiting 0 0 [{ gives 0x80 with rxErr := true }])) = true := by decide

/-- R141 on the first byte of K5, and S2's first running sum, 00F2. -/
theorem test_header_byte :
    after (fun t => t.rx.msgid = 0x0D ∧ t.rxSum = 0x00F2 ∧ t.rxIdx = 1)
      (step (awaiting 1 0 [gives 0xF2])) = true := by decide

/-- P6, second line: LEN 10 with the ninth byte in. -/
theorem test_length_check :
    after (fun t => t.fsm = .done ∧ t.res.status = .malformedFrameError ∧ t.rxIdx = 9)
      (step { awaiting 0 0 [gives 0x80] with
        rxIdx := 8, rx := { RxFrame.zero with msgid := 0x7F, comb := 0x0A } }) = true := by decide

/-- E7 at its last byte: both values are recorded. -/
theorem test_checksum_error :
    after (fun t => t.fsm = .done ∧ t.res = ⟨.checksumError, 0, 0, 0, 0x0930, 0x0831⟩)
      (step { awaiting 1 0 [gives 0x31] with
        rxIdx := 15, rxSum := 0x0930, rxCk := 0x0800
        rx := { RxFrame.zero with msgid := 0x0D, comb := 0x10, pcount := 5 } }) = true := by decide

/-- E5 at its last byte: an ID of no row, no retry. -/
theorem test_unknown_id_received :
    after (fun t => t.fsm = .done ∧ t.res.status = .protocolError ∧ t.res.msgid = 0x42)
      (step { awaiting 0 0 [gives 0x7E] with
        rxIdx := 10, rxSum := 0x057E, rxCk := 0x0500
        rx := { RxFrame.zero with msgid := 0x42, comb := 0x0B } }) = true := by decide

/-- R221, R224: the result waits; a command offered in DONE is not accepted. -/
theorem test_done :
    after (fun t => t.fsm = .done) (step { base with fsm := .done, env := [{ now with cmdValid := true }] }) = true ∧
    after (fun t => t.fsm = .idle) (step { base with fsm := .done, env := [{ now with resReady := true }] }) = true := by
  decide

/-- U11: the two faults and the refusal, from states no run reaches. -/
theorem test_stops :
    step (sending 15 0 takes) = .fault .txIndexBeyondFrame ∧
    step { awaiting 0 0 [gives 0] with rxIdx := 11 } = .fault .rxIndexBeyondFrame ∧
    step { base with fsm := .backoff, backoffCnt := 0, attempt := 2 } = .refused .attemptBeyondTwo := by
  exact ⟨rfl, rfl, rfl⟩

/-! ### The host's table words -/

theorem test_table_words :
    decodeTableWord 8 0x00 = some (.setPosition 0) ∧ decodeTableWord 8 0x01 = some .getPosition ∧
    decodeTableWord 8 0x0C = some (.query ⟨0x0B, 0, ⟨0, 0, 0⟩, ⟨0, 0, 0⟩, []⟩) ∧
    decodeTableWord 8 0x6F = some (.nack ⟨0x0C, 0, ⟨0, 0, 0⟩, ⟨0, 0, 0⟩, [0]⟩) ∧
    decodeTableWord 8 0x7F = some (.ack ⟨0x0B, 0, ⟨0, 0, 0⟩, ⟨0, 0, 0⟩, []⟩) := by decide

theorem test_table_words_with_payload :
    decodeTableWord 8 0x03 = some (.move ⟨0x0F, 0, ⟨0, 0, 0⟩, ⟨0, 0, 0⟩, [0, 0, 0, 0]⟩) ∧
    decodeTableWord 8 0x0D = some (.posreport ⟨0x10, 0, ⟨0, 0, 0⟩, ⟨0, 0, 0⟩, [0, 0, 0, 0, 0]⟩) := by decide

/-- The first step after reset runs the placed instruction. -/
theorem test_withFetchWord :
    after (fun t => t.fsm = .space ∧ t.cmdOp = 0) (step (State.reset.withFetchWord 8 0x00)) = true ∧
    after (fun t => t.fsm = .space ∧ t.cmdOp = 1) (step (State.reset.withFetchWord 8 0x01)) = true ∧
    after (fun t => t.txOut = [0xFC]) (step (State.reset.withFetchWord 8 0x03)) = true ∧
    after (fun t => t.txOut = [0xF3]) (step (State.reset.withFetchWord 8 0x0C)) = true := by decide

theorem test_withFetchWord_received :
    after (fun t => t.fsm = .done ∧ t.res.status = .ok ∧ t.res.pos = 100)
      (step (State.reset.withFetchWord 8 0x0D)) = true ∧
    after (fun t => t.fsm = .backoff) (step (State.reset.withFetchWord 8 0x6F)) = true ∧
    after (fun t => t.fsm = .done ∧ t.res.status = .ok) (step (State.reset.withFetchWord 8 0x7F)) = true := by
  decide

/-! ### Witnesses: for each statement with hypotheses, a state and operands that meet them, each clause at a boundary -/

theorem witness_ChecksumNeverWraps :
    ([] : List Byte).length ≤ 20 ∧ (List.replicate 20 (0xFF : Byte)).length ≤ 20 ∧
    (List.replicate 29 (0xFF : Byte)).length ≤ 29 := by decide

theorem witness_LengthErrors :
    lenField (inv 0xF5) = 10 ∧ lenField (inv 0xFF) = 0 ∧ 20 < (List.replicate 21 (0 : Byte)).length := by decide

/-- R148: a decoded frame with its reserved bits clear (K1) and one with them set (K12). -/
theorem witness_FrameRoundTrip :
    (List.replicate 20 (0 : Byte)).length ≤ 20 ∧
    decodeStream ((wireImage 0x7F ackK1).map .byte) = .ok (⟨0x7F, ackK1⟩, []) ∧
    ackK1.comb.extractLsb' 5 2 = 0 ∧
    decodeStream ((wireImage 0x7F { ackK1 with comb := 0x6B }).map .byte) =
      .ok (⟨0x7F, { ackK1 with comb := 0x6B }⟩, []) ∧
    (0x6B : Byte).extractLsb' 5 2 ≠ 0 := by decide

theorem witness_WireImageDecodesByMessageId :
    ackK1.wf = true ∧ reportK10.wf = true ∧
    messageOf 0x42 ackK1 = .error (.unknownMessage 0x42) ∧ messageOf 0x7F ackK1 = .ok (.ack ackK1) := by decide

theorem witness_DecodeEncodeRoundTrip :
    Instr.wf (.setPosition 0x8000) = true ∧ Instr.wf .getPosition = true ∧ Instr.wf (.move moveV1) = true ∧
    Instr.wf (.query queryV5) = true ∧ Instr.wf (.posreport reportK10) = true ∧
    Instr.wf (.nack nackK4) = true ∧
    Instr.wf (.ack ⟨0xFF, 0xFF, device, device, List.replicate 20 0xFF⟩) = true := by decide

/-- R147: the four clauses on the bytes of E4c, E1, E4b, E8 and K1. -/
theorem witness_DecodeErrorsInOrder :
    [0x80, 0xF5, 0x8F, 0x51, 0x7A, 0xF3, 0x80, (0x80 : Byte)].length < 9 ∧
    ([0x80, 0xF5, 0x8F, 0x51, 0x7A, 0xF3, 0x80, 0x80, (0x80 : Byte)].length = 9 ∧
      lenField (inv ([0x80, 0xF5, 0x8F, 0x51, 0x7A, 0xF3, 0x80, 0x80, (0x80 : Byte)].getD 1 0)) = 10) ∧
    ([0x90, 0xF3, 0x8F, 0x51, 0x7A, 0xF3, 0x80, 0x80, (0x80 : Byte)].length = 9 ∧
      lenField (inv ([0x90, 0xF3, 0x8F, 0x51, 0x7A, 0xF3, 0x80, 0x80, (0x80 : Byte)].getD 1 0)) = 12 ∧
      [0xEF, (0x06 : Byte)].length + 9 < 12) ∧
    ([0x80, 0xF4, 0x8F, 0x51, 0x7A, 0xF3, 0x80, 0x80, (0x80 : Byte)].length = 9 ∧
      ([] : List Byte).length + 11 =
        lenField (inv ([0x80, 0xF4, 0x8F, 0x51, 0x7A, 0xF3, 0x80, 0x80, (0x80 : Byte)].getD 1 0)) ∧
      u16be 0x05 0x40 ≠ checksum [0x80, 0xF4, 0x8F, 0x51, 0x7A, 0xF3, 0x80, 0x80, 0x80] ∧
      u16be 0x05 0x41 = checksum [0x80, 0xF4, 0x8F, 0x51, 0x7A, 0xF3, 0x80, 0x80, 0x80]) := by decide

theorem witness_RearrangedPayloadPassesDecode :
    reportK5.wf = true ∧ [0x00, 0x64, 0x16, 0xFF, 0x00].Perm reportK5.payload := by decide

/-- R111: K1's combined byte 0B and K12's 6B. -/
theorem witness_ReservedBitsTakeNoPart :
    ackK1.wf = true ∧ (0x6B : Byte).extractLsb' 0 5 = ackK1.comb.extractLsb' 0 5 ∧
    (0x6B : Byte).getLsbD 7 = ackK1.comb.getLsbD 7 ∧ (awaiting 0 0 []).fsm = .await ∧
    Message.wf { ackK1 with comb := 0x6B } = true ∧ (0x6B : Byte).extractLsb' 5 2 ≠ 0 ∧
    encodeFrame 0x7F (ackField 0x6B) 0x70 device ctrlAddr [] = .ok (wireImage 0x7F ackK1) := by decide

theorem witness_PositionMapping :
    (0 ≤ (0 : Word16).toInt ∧ (0 : Word16).toInt ≤ 100) ∧
    (0 ≤ (100 : Word16).toInt ∧ (100 : Word16).toInt ≤ 100) := by decide

theorem witness_SetPositionValidates :
    base.fsm = .idle ∧ (0 ≤ (0 : Word16).toInt ∧ (100 : Word16).toInt ≤ 100) ∧ (0xFFFF : Word16).toInt < 0 ∧ (0x8000 : Word16).toInt < 0 ∧
    100 < (101 : Word16).toInt ∧ 100 < (0x7FFF : Word16).toInt := by decide

theorem witness_SetPositionBuildsMove :
    base.fsm = .idle ∧ 0 ≤ (0 : Word16).toInt ∧ (0 : Word16).toInt ≤ 100 ∧
    0 ≤ (100 : Word16).toInt ∧ (100 : Word16).toInt ≤ 100 := by decide

theorem witness_GetPositionBuildsQuery : base.fsm = .idle := by decide

theorem witness_CommandNotAcceptedDuringCall :
    (awaiting 0 0 [gives 0x80]).fsm ≠ .idle ∧ (awaiting 0 0 [gives 0x80]).env = gives 0x80 :: [] ∧
    timerDone (awaiting 0 0 [gives 0x80]) = false := by decide

theorem witness_MoveAndQueryBuildInIdle :
    base.fsm = .idle ∧ queryV5.payload.length ≤ 20 ∧
    (List.replicate 20 (0 : Byte)).length ≤ 20 ∧ 20 < tooLong.payload.length := by decide

/-- R136: the first byte, the last body byte, the two checksum bytes. -/
theorem witness_MoveAndQueryHandOverBytes :
    ((sending 0 0 takes).fsm = .xmit ∧ (sending 0 0 takes).input.txErr = false ∧
      (sending 0 0 takes).input.txReady = true) ∧
    (logicalBytes 0x03 moveV1)[(sending 0 0 takes).txIdx.val]? = some 0x03 ∧
    (logicalBytes 0x0C queryV5)[(sending 8 0 takes).txIdx.val]? = some 0xAE ∧
    (sending 13 0x0942 takes).txIdx.val = 9 + moveV1.payload.length ∧
    (sending 9 0x0624 takes).txIdx.val = 9 + queryV5.payload.length ∧
    (sending 14 0x0942 takes).txIdx.val = 10 + moveV1.payload.length ∧
    (sending 10 0x0624 takes).txIdx.val = 10 + queryV5.payload.length := by decide

theorem witness_WriteFailureEndsCall :
    (sending 4 0 { takes with txErr := true }).fsm = .xmit ∧
    (sending 4 0 { takes with txErr := true }).input.txErr = true := by decide

theorem witness_UnexpectedMessageIsProtocolError :
    let s := { awaiting 0 0 [] with rx := { RxFrame.zero with msgid := 0x0D } }
    let u := { awaiting 1 0 [] with rx := { RxFrame.zero with msgid := 0x7F } }
    (s.fsm = .await ∧ s.cmdOp = 0 ∧ s.rx.msgid ≠ 0x7F ∧ s.rx.msgid ≠ 0x6F) ∧
    (u.fsm = .await ∧ u.cmdOp = 1 ∧ u.rx.msgid ≠ 0x0D) := by decide

theorem witness_AckEndsCallOk : (awaiting 0 2 []).fsm = .await ∧ (awaiting 0 2 []).cmdOp = 0 := by decide

theorem witness_NackRetriesOrGivesUp :
    (awaiting 0 2 []).fsm = .await ∧ (awaiting 0 2 []).cmdOp = 0 ∧ nackK2.payload = 0x10 :: [] ∧
    nackK4.payload = [] ∧ (awaiting 0 2 []).attempt = 2 ∧ (awaiting 0 1 []).attempt ≠ 2 := by decide

theorem witness_PositionReportGivesPosition :
    (awaiting 1 0 []).fsm = .await ∧ (awaiting 1 0 []).cmdOp = 1 ∧
    reportK5.payload = 0x64 :: 0x00 :: 0x16 :: 0xFF :: 0x00 :: [] ∧ reportK9.payload.length < 5 := by decide

theorem witness_WrongAnswersAreProtocolErrors :
    (awaiting 1 0 []).fsm = .await ∧ (awaiting 1 0 []).cmdOp = 1 ∧ (awaiting 0 0 []).cmdOp = 0 := by decide

theorem witness_MessagesElsewhereChangeNothing :
    { base with fsm := .space }.fsm = .space ∧ { base with fsm := .backoff }.fsm = .backoff ∧
    { base with fsm := .done }.fsm = .done ∧ base.fsm = .idle ∧ (sending 0 0 takes).fsm = .xmit := by decide

theorem witness_ResultHeldUntilTaken :
    let s := { base with fsm := .done, env := [{ now with resReady := true }] }
    s.fsm = .done ∧ s.input.rst = false ∧ s.input.resReady = true ∧
    { base with fsm := .done }.input.resReady = false := by decide

theorem witness_UnansweredCoreWaits :
    (sending 0 0 now).input.rst = false ∧ (sending 0 0 now).fsm = .xmit ∧
    (sending 0 0 now).input.txErr = false ∧ (sending 0 0 now).input.txReady = false ∧
    (awaiting 0 0 [now]).input.rst = false ∧ (awaiting 0 0 [now]).fsm = .await ∧
    (awaiting 0 0 [now]).input.rxErr = false ∧ (awaiting 0 0 [now]).input.rxValid = false ∧
    { base with fsm := .done }.input.resReady = false ∧ base.fsm = .idle ∧ base.input.cmdValid = false := by
  decide

/-- R141, R142: both ends of the header, LEN 10 and LEN 11. -/
theorem witness_HeaderByteStored :
    (awaiting 0 0 []).rxIdx.val ≤ 8 ∧ (awaiting 0 0 []).rxIdx = 0 ∧
    { awaiting 0 0 [] with rxIdx := 8 }.rxIdx.val ≤ 8 ∧
    ((0x8A : Byte).extractLsb' 0 5).toNat < 11 ∧ 11 ≤ ((0x8B : Byte).extractLsb' 0 5).toNat ∧
    (∀ i : Fin 9, ∃ s : State, s.rxIdx = Fin.castLE (by decide) i ∧ s.rxIdx.val ≤ 8 ∧ s.rx.comb = 0x8B) :=
  ⟨by decide, by decide, by decide, by decide, by decide,
    fun i => ⟨{ base with rxIdx := Fin.castLE (by decide) i, rx := { RxFrame.zero with comb := 0x8B } },
      rfl, Nat.le_of_lt_succ i.isLt, rfl⟩⟩

/-- R143 to R145: the first and the last payload byte of 20, the checksum bytes after payloads of 0 and 20. -/
theorem witness_PayloadAndChecksumBytes :
    let s (i : Fin 32) (n : Fin 21) : State := { base with rxIdx := i, rx := { RxFrame.zero with pcount := n } }
    (9 ≤ (s 9 20).rxIdx.val ∧ (s 9 20).rxIdx.val = 9 + (0 : Fin 20).val ∧ (0 : Fin 20).val < (s 9 20).rx.pcount.val) ∧
    ((s 28 20).rxIdx.val = 9 + (19 : Fin 20).val ∧ (19 : Fin 20).val < (s 28 20).rx.pcount.val) ∧
    ((s 9 0).rxIdx.val = 9 + (s 9 0).rx.pcount.val) ∧ ((s 29 20).rxIdx.val = 9 + (s 29 20).rx.pcount.val) ∧
    ((s 10 0).rxIdx.val = 10 + (s 10 0).rx.pcount.val) ∧ ((s 30 20).rxIdx.val = 10 + (s 30 20).rx.pcount.val) ∧
    ((s 10 0).rxCk.extractLsb' 8 8 ++ (0 : Byte) = (s 10 0).rxSum) ∧
    ((s 10 0).rxCk.extractLsb' 8 8 ++ (1 : Byte) ≠ (s 10 0).rxSum) := by decide

theorem witness_ReadFailureEndsCall :
    let s := awaiting 0 2 [{ gives 0x80 with rxErr := true }]
    s.fsm = .await ∧ s.input.rst = false ∧ s.input.rxErr = true := by decide

/-- R196: a start, and a step into XMIT; a moment that passes first. -/
theorem witness_TransmissionStartsOnlyFromSpace :
    let s := { base with fsm := .space, spaceCnt := 0 }
    let u := { s with env := [{ quietInputs with lag := true }] }
    (s.fsm = .space ∧ s.spaceCnt = 0 ∧ s.input.lag = false ∧ s.fsm ≠ .xmit ∧
      ∃ t, step s = .next t ∧ t.fsm = .xmit) ∧
    (u.fsm = .space ∧ u.spaceCnt = 0 ∧ u.input.lag = true ∧ u.input.rst = false) :=
  ⟨⟨rfl, rfl, rfl, by decide, _, rfl, rfl⟩, rfl, rfl, rfl, rfl⟩

theorem witness_BackoffEnds :
    let s := { base with fsm := .backoff, backoffCnt := 0, attempt := 1 }
    let u := { s with env := [{ quietInputs with lag := true }] }
    s.fsm = .backoff ∧ s.backoffCnt = 0 ∧ (2 : Fin 3).val = s.attempt.val + 1 ∧ s.input.lag = false ∧
    u.fsm = .backoff ∧ u.backoffCnt = 0 ∧ u.input.lag = true ∧ u.input.rst = false := by decide

/-- R306: no period and three periods, in SPACE and in BACKOFF. -/
theorem witness_TransitionsTakeAnyNumberOfPeriods :
    let e := { quietInputs with lag := true }
    let s := { base with fsm := .space, spaceCnt := 0, env := List.replicate 3 e ++ [] }
    let u := { base with fsm := .backoff, attempt := 1, env := List.replicate 0 e ++ [now] }
    e.lag = true ∧ e.tick = true ∧ e.rst = false ∧
    (([] : List Inputs).headD quietInputs).lag = false ∧ ([now].headD quietInputs).lag = false ∧
    s.fsm = .space ∧ s.spaceCnt = 0 ∧ u.fsm = .backoff ∧ u.backoffCnt = 0 ∧
    (2 : Fin 3).val = u.attempt.val + 1 ∧
    after (fun t => t.fsm = .xmit ∧ t.env = []) (runFor 4 s) = true ∧ ticksIn 4 s = 3 := by decide

/-- R173: a reset edge, a completion, a write failure, a plain moment. -/
theorem witness_SpacingArmedAtThreeMoments :
    (∃ t, step { base with env := [{ now with rst := true }] } = .next t ∧
      isResetStep { base with env := [{ now with rst := true }] } = true) ∧
    (∃ t, step (sending 14 0x0942 takes) = .next t ∧ isResetStep (sending 14 0x0942 takes) = false ∧
      (sending 14 0x0942 takes).fsm = .xmit ∧ t.fsm = .await) ∧
    (∃ t, step (sending 4 0 { now with txErr := true }) = .next t ∧
      isResetStep (sending 4 0 { now with txErr := true }) = false ∧ t.fsm = .done) ∧
    (∃ t, step (sending 4 0 takes) = .next t ∧ isResetStep (sending 4 0 takes) = false ∧
      ¬(t.fsm = .await ∨ t.fsm = .done)) :=
  ⟨⟨_, rfl, rfl⟩, ⟨_, rfl, rfl, rfl, rfl⟩, ⟨_, rfl, rfl, rfl⟩, ⟨_, rfl, rfl, by decide⟩⟩

/-- From SPACE, with no inputs but the clock, a transmission starts after as many moments as SPACE_CNT says. -/
theorem reaches_xmit (n : Nat) :
    ∀ s : State, s.fsm = .space → s.spaceCnt = n → s.env = [] → ∃ t, runFor (n + 1) s = .next t ∧ t.fsm = .xmit := by
  induction n with
  | zero =>
    intro s hf hc he
    have hd : timerDone s = true := by simp [timerDone_iff, hf, hc, State.input, he, quietInputs]
    have hs : step s = .next (startTransmission s) := by rw [step_timer hd]; simp [timerEvent, hf]
    exact ⟨startTransmission s, by rw [runFor_succ_of_step hs]; rfl, rfl⟩
  | succ n ih =>
    intro s hf hc he
    have hd : timerDone s = false := by simp [timerDone, timerExpired, hf, hc]
    have hi : s.input = quietInputs := by simp [State.input, he]
    have hs : step s = .next (dropInput (tick s)) := by
      rw [step_event hd (by rw [hi]; rfl), hi]
      simp [quietInputs, tickIf, portEvent, hf]
    obtain ⟨t, ht, hx⟩ := ih (dropInput (tick s)) (by simp [hf]) (by simp [hc]) (by simp [he])
    exact ⟨t, by rw [runFor_succ_of_step hs]; exact ht, hx⟩

/-- From BACKOFF, with no inputs but the clock, the wait ends, in BACKOFF until then. -/
theorem reaches_space (n : Nat) :
    ∀ s : State, s.fsm = .backoff → s.backoffCnt = n → s.attempt.val < 2 → s.env = [] →
      ∃ t, runFor (n + 1) s = .next t ∧ t.fsm = .space ∧
        allAlong (fun u => decide (u.fsm = .backoff)) (n + 1) s = true := by
  induction n with
  | zero =>
    intro s hf hc ha he
    have hd : timerDone s = true := by simp [timerDone_iff, hf, hc, State.input, he, quietInputs]
    have hlt : s.attempt.val + 1 < 3 := by omega
    have hs : step s = .next { s with attempt := ⟨s.attempt.val + 1, hlt⟩, fsm := .space } := by
      rw [step_timer hd]
      simp [timerEvent, hf, endBackoff, hlt]
    exact ⟨_, by rw [runFor_succ_of_step hs]; rfl, rfl, by simp [allAlong, hs, hf]⟩
  | succ n ih =>
    intro s hf hc ha he
    have hd : timerDone s = false := by simp [timerDone, timerExpired, hf, hc]
    have hi : s.input = quietInputs := by simp [State.input, he]
    have hs : step s = .next (dropInput (tick s)) := by
      rw [step_event hd (by rw [hi]; rfl), hi]
      simp [quietInputs, tickIf, portEvent, hf]
    obtain ⟨t, ht, hx, hal⟩ :=
      ih (dropInput (tick s)) (by simp [hf]) (by simp [hf, hc, tick]) (by simp [ha]) (by simp [he])
    refine ⟨t, by rw [runFor_succ_of_step hs]; exact ht, hx, ?_⟩
    rw [allAlong, hs]
    simp [hf, hal]

/-- R176: after a write failure, after a reset edge and from power-on, runs that get as far as the next write. -/
theorem witness_WritesAreSpaced :
    (∃ r s t k, step r = .next s ∧ r.fsm = .xmit ∧ s.fsm ≠ .xmit ∧ runFor k s = .next t ∧ t.fsm = .xmit) ∧
    (∃ r s t k, step r = .next s ∧ isResetStep r = true ∧ runFor k s = .next t ∧ t.fsm = .xmit) ∧
    (∃ env t k, runFor k { State.reset with env := env } = .next t ∧ t.fsm = .xmit) := by
  refine ⟨?_, ?_, ?_⟩
  · obtain ⟨t, ht, hx⟩ := reaches_xmit nSpace
      { base with
        fsm := .space, cmdOp := 1, txIdx := 4, spaceCnt := nSpace
        tx := moveTx.load idQuery (queryMessage motor) (by decide) } rfl rfl rfl
    exact ⟨{ sending 4 0 { now with txErr := true } with
        env := [{ now with txErr := true }, { now with resReady := true }, { now with cmdValid := true, cmdOp := 1 }] },
      _, t, 2 + (nSpace + 1), rfl, rfl, by decide, by rw [runFor_add (j := 2) rfl]; exact ht, hx⟩
  · obtain ⟨t, ht, hx⟩ := reaches_xmit nSpace
      { State.reset with
        motorAddr := motor, fsm := .space, cmdOp := 1
        tx := TxFrame.zero.load idQuery (queryMessage motor) (by decide) } rfl rfl rfl
    exact ⟨{ base with
        env := [{ now with rst := true, cfgAddr := 0xAE850C }, { now with cmdValid := true, cmdOp := 1 }] },
      _, t, 1 + (nSpace + 1), rfl, rfl, by rw [runFor_add (j := 1) rfl]; exact ht, hx⟩
  · obtain ⟨t, ht, hx⟩ := reaches_xmit nSpace
      { State.reset with
        fsm := .space, cmdOp := 1
        tx := TxFrame.zero.load idQuery (queryMessage State.reset.motorAddr) (by decide) } rfl rfl rfl
    exact ⟨[{ now with cmdValid := true, cmdOp := 1 }], t, 1 + (nSpace + 1),
      by rw [runFor_add (j := 1) rfl]; exact ht, hx⟩

/-- R203: a NACK begins a backoff that runs to its end. -/
theorem witness_BackoffLasts :
    ∃ r s t k, step r = .next s ∧ r.fsm ≠ .backoff ∧ s.fsm = .backoff ∧
      allAlong (fun u => decide (u.fsm = .backoff)) k s = true ∧ runFor k s = .next t ∧ t.fsm = .space := by
  have hs : step (placeReceive 0 idNack nackK4 base) =
      .next (dropInput (answerNack 0xFF
        { placeReceive 0 idNack nackK4 base with rxIdx := 11, rxCk := 0x0551 })) := rfl
  obtain ⟨t, ht, hx, hal⟩ := reaches_space nBackoff
    (dropInput (answerNack 0xFF { placeReceive 0 idNack nackK4 base with rxIdx := 11, rxCk := 0x0551 }))
    rfl rfl (by decide) rfl
  exact ⟨_, _, t, nBackoff + 1, hs, by decide, rfl, hal, ht, hx⟩

theorem witness_ResetFromAnyState : isResetStep (sending 4 0 { now with rst := true }) = true := by decide

theorem witness_StepRunsTheDecodedInstruction :
    (let s := { base with env := [{ quietInputs with cmdValid := true, cmdPos := 5 }] };
      s.input.rst = false ∧ s.fsm = .idle ∧ s.input.cmdValid = true ∧
      decode (.hostcmd s.input.cmdOp s.input.cmdPos) = .ok (.setPosition 5)) ∧
    ((sending 0 0 takes).fsm = .xmit ∧ (sending 0 0 takes).tx.msgid = 0x03 ∧
      messageOf (sending 0 0 takes).tx.msgid (sending 0 0 takes).tx.message = .ok (.move moveV1)) ∧
    (let s := placeReceive 0 idAck ackK1 base;
      ∃ u, s.fsm = .await ∧ s.input.rxErr = false ∧ s.input.rxValid = true ∧
        receiveByte s.input.rxData (tickIf s.input.tick s) = .frameIn u ∧
        messageOf u.rx.msgid u.rx.message = .ok (.ack ackK1)) :=
  ⟨by decide, by decide, _, rfl, rfl, rfl, rfl, by decide⟩

theorem witness_PlacedInstructionRunsNext :
    Instr.wf (.move moveV1) = true ∧ moveV1.comb.extractLsb' 5 2 = 0 ∧
    Instr.wf (.query queryV5) = true ∧ queryV5.comb.extractLsb' 5 2 = 0 ∧
    Instr.wf (.ack { ackK1 with comb := 0x6B }) = true := by decide

/-- R252: in each state another channel's inputs differ. -/
theorem witness_OtherInputsIgnored :
    let s := awaiting 0 0 [gives 0x80];
    s.env = gives 0x80 :: [] ∧ timerDone s = false ∧
      sameInputsFor s.fsm (gives 0x80) { gives 0x80 with cmdValid := true, txErr := true } :=
  ⟨rfl, rfl, rfl, rfl, rfl, rfl, rfl, rfl⟩

theorem witness_EveryStepIsATableRow :
    (∃ t, step (sending 14 0x0942 takes) = .next t) ∧ (∃ t, step base = .next t) :=
  ⟨⟨_, rfl⟩, ⟨_, rfl⟩⟩

theorem witness_RetryOnlyAfterNack :
    let s := placeReceive 0 idNack nackK4 base
    let u := sending 4 0 { now with txErr := true }
    (∃ t, step s = .next t ∧ isResetStep s = false ∧ s.fsm ≠ .backoff ∧ t.fsm = .backoff) ∧
    (∃ t, step u = .next t ∧ isResetStep u = false ∧ t.res.status ≠ u.res.status ∧ t.res.status ≠ .ok) :=
  ⟨⟨_, rfl, rfl, by decide, rfl⟩, ⟨_, rfl, rfl, by decide, by decide⟩⟩

theorem witness_FrameKeptForRetransmission :
    let s := placeReceive 0 idNack nackK4 base
    ∃ t, step s = .next t ∧ isResetStep s = false ∧ ¬(s.fsm = .idle ∧ t.fsm = .space) :=
  ⟨_, rfl, rfl, by decide⟩

theorem witness_TransmitStreamOnlyGrows :
    ∃ t, step (sending 0 0 takes) = .next t ∧ t.txOut = [0xFC] := ⟨_, rfl, rfl⟩

theorem witness_TransmissionWritesEncodedFrame :
    let s := { sending 0 0 takes with env := List.replicate 15 takes }
    s.fsm = .xmit ∧ s.txIdx = 0 ∧ s.txSum = 0 ∧ s.env = List.replicate 15 takes ++ [] ∧
    (List.replicate 15 takes).length = 11 + s.tx.pcount.val ∧
    (∀ e ∈ List.replicate 15 takes, e.rst = false ∧ e.txErr = false ∧ e.txReady = true) := by decide

theorem witness_ReceptionDecodesFrame :
    let es := (wireImage 0x0D reportK5).map gives
    let s := awaiting 1 0 es
    s.fsm = .await ∧ s.rxIdx = 0 ∧ s.rxSum = 0 ∧ s.rxCk = 0 ∧ reportK5.wf = true ∧ s.env = es ++ [] ∧
    es.map Inputs.rxData = wireImage 0x0D reportK5 ∧
    (∀ e ∈ es, e.rst = false ∧ e.rxErr = false ∧ e.rxValid = true) := by decide

/-- E1 (its first nine bytes) and E8. -/
theorem witness_BadFramesEndTheCall :
    let es := [0x80, 0xF5, 0x8F, 0x51, 0x7A, 0xF3, 0x80, 0x80, 0x80].map gives
    let fs := (bodyBytes 0x7F ackK1 ++ [0x05, 0x40]).map gives
    ((awaiting 0 0 es).fsm = .await ∧ (awaiting 0 0 es).rxIdx = 0 ∧ (awaiting 0 0 es).rxSum = 0 ∧
      (awaiting 0 0 es).rxCk = 0 ∧ (awaiting 0 0 es).env = es ++ [] ∧
      (∀ e ∈ es ++ fs, e.rst = false ∧ e.rxErr = false ∧ e.rxValid = true)) ∧
    (es.map Inputs.rxData = [0x80, 0xF5, 0x8F, 0x51, 0x7A, 0xF3, 0x80, 0x80, 0x80] ∧
      lenField (inv 0xF5) < 11) ∧
    (ackK1.wf = true ∧ fs.map Inputs.rxData = bodyBytes 0x7F ackK1 ++ [0x05, 0x40] ∧
      u16be 0x05 0x40 ≠ checksum (bodyBytes 0x7F ackK1)) := by decide

/-- SET_POSITION 5 with its first byte sent. -/
theorem controlInv_sending (e : Inputs) : ControlInv (sending 1 0xFC e) where
  space := Nat.zero_le _
  backoff := Nat.zero_le _
  retry := by simp [sending]
  single := fun h => absurd h (show (0 : BitVec 1) ≠ 1 by decide)
  txIndex := fun _ => (by decide : 1 ≤ hdrLen + 1 + moveTx.pcount.val)
  rxIndex := by simp [sending]

theorem witness_ControlInvKept :
    ∃ s t, ControlInv s ∧ step s = .next t ∧ t.txIdx = 2 := ⟨_, _, controlInv_sending takes, rfl, rfl⟩

theorem witness_RunningSumsKept :
    ∃ s t, ControlInv s ∧ SumInv s ∧ s.fsm = .xmit ∧ step s = .next t ∧ t.txIdx = 2 :=
  ⟨_, _, controlInv_sending takes,
    ⟨fun _ => by decide, fun h => absurd h (show Fsm.xmit ≠ .await by decide)⟩, rfl, rfl, rfl⟩

theorem witness_CallFrameKept :
    ∃ s t, CallFrameInv s ∧ inCall s.fsm = true ∧ step s = .next t ∧ inCall t.fsm = true :=
  ⟨sending 1 0xFC takes, _, fun _ => Or.inl ⟨rfl, rfl, 5, by decide, by decide⟩, rfl, rfl, rfl⟩

theorem witness_ResultsKept :
    ∃ s t, ResultInv s ∧ step s = .next t ∧ s.fsm = .await ∧ t.res.pos = 78 :=
  ⟨placeReceive 1 idPosreport reportK5 base, _,
    { cleared := fun _ => rfl
      noPos := fun h => absurd h (by decide)
      range := by decide
      outcomes := fun h => absurd h (by decide) }, rfl, rfl, by decide⟩

/-- Log 14: one index beyond the shortest frame, and ATTEMPT 2 in BACKOFF. -/
theorem witness_StopsOutsideTheRanges :
    ((sending 11 0 takes).fsm = .xmit ∧ (sending 11 0 takes).input.txErr = false ∧
      (sending 11 0 takes).input.txReady = true ∧ 10 + queryV5.payload.length < (sending 11 0 takes).txIdx.val) ∧
    (let s := { awaiting 0 0 [gives 0] with rxIdx := 11 };
      s.fsm = .await ∧ s.input.rst = false ∧ s.input.rxErr = false ∧ s.input.rxValid = true ∧
      9 ≤ s.rxIdx.val ∧ 10 + s.rx.pcount.val < s.rxIdx.val) ∧
    (let s := { base with fsm := .backoff, backoffCnt := 0, attempt := 2 };
      s.fsm = .backoff ∧ s.backoffCnt = 0 ∧ s.attempt = 2 ∧ s.input.lag = false) := by decide

theorem witness_TickLowersTheCounters :
    timerDone base = false ∧ base.input.rst = false ∧ base.input.tick = true := by decide

theorem witness_NeverStops : ControlInv (sending 1 0xFC takes) := controlInv_sending takes

/-- A QUERY goes out whole and the response is awaited. -/
theorem witness_AtMostThreeTransmissions :
    let s := { base with
      fsm := .space, cmdOp := 1, spaceCnt := 0, env := List.replicate 11 takes
      tx := TxFrame.zero.load idQuery (queryMessage motor) (by decide) }
    ∃ t, s.fsm = .space ∧ s.attempt = 0 ∧ runFor 12 s = .next t ∧ t.fsm = .await ∧
      allAlong (fun u => inCall u.fsm) 12 s = true ∧ countSteps completesWrite 12 s = 1 :=
  ⟨_, rfl, rfl, rfl, rfl, by decide, by decide⟩

theorem witness_EveryCallEnds :
    let s := { sending 1 0xFC takes with env := List.replicate callBound answering }
    ControlInv s ∧ inCall s.fsm = true ∧ callBound ≤ s.env.length ∧
      ∀ e ∈ s.env.take callBound, e.answers = true := by
  refine ⟨?_, rfl, by simp, ?_⟩
  · have h := controlInv_sending takes
    exact ⟨h.space, h.backoff, h.retry, h.single, h.txIndex, h.rxIndex⟩
  · intro e he
    have := List.eq_of_mem_replicate (List.mem_of_mem_take he)
    rw [this]
    rfl

end Sys2Proof.Tests
end

/-! PROOFS. The state of 10_state.md: the reset edge (R44, R281) and the ports it leaves (R40). -/

namespace Sys2Proof.Machine

/-- A reset edge is a moment with `rst` high that no due transition comes before (R255). -/
theorem isResetStep_iff (s : State) :
    isResetStep s = true ↔ timerDone s = false ∧ s.input.rst = true := by
  simp [isResetStep]

/-- A reset edge is `resetRegisters` with the strap sampled at that moment (R44), the moment's inputs then over. -/
theorem step_of_isResetStep {s : State} (h : isResetStep s = true) :
    step s = .next (dropInput (resetRegisters s.input.cfgAddr s)) := by
  obtain ⟨hd, hr⟩ := (isResetStep_iff s).mp h
  exact step_reset hd hr

/-- In IDLE `cmd_ready` is the one valid or ready output that is high (R40). -/
theorem outputs_of_idle {s : State} (h : s.fsm = .idle) :
    s.outputs.cmdReady = true ∧ s.outputs.resValid = false ∧
      s.outputs.txValid = false ∧ s.outputs.rxReady = false := by
  simp [State.outputs, h]

/-- After a reset edge the core is in IDLE (R44). -/
theorem fsm_after_reset (cfg : BitVec 24) (s : State) :
    (dropInput (resetRegisters cfg s)).fsm = .idle := by
  simp [State.reset]

/-- Settles O39: a reset edge is `resetRegisters` whatever the state (`step_of_isResetStep`), which writes the table of R44 and leaves IDLE, whose outputs are `outputs_of_idle`. -/
theorem resetFromAnyState : Obligations.ResetFromAnyState := by
  intro s h
  obtain ⟨hcmd, hres, htx, hrx⟩ := outputs_of_idle (fsm_after_reset s.input.cfgAddr s)
  exact ⟨TxFrame.zero, RxFrame.zero, _, step_of_isResetStep h, hcmd, hres, htx, hrx, rfl⟩

end Sys2Proof.Machine

/-! PROOFS. The memory of 20_memory.md: the core has none, so what it keeps for a retransmission is in registers (R79), and its streams are read and written one at a time (R65). -/

namespace Sys2Proof.Machine

/-- Settles O41: `tx_valid` and `rx_ready` each say that FSM is one state (R40), and XMIT is not AWAIT. -/
theorem neverReadAndWriteTogether : Obligations.NeverReadAndWriteTogether := by
  intro s
  have htx : s.outputs.txValid = decide (s.fsm = .xmit) := rfl
  have hrx : s.outputs.rxReady = decide (s.fsm = .await) := rfl
  refine ⟨by simp [htx], by simp [hrx], ?_⟩
  rw [htx, hrx]
  cases s.fsm <;> rfl

/-! ### The registers a retransmission is made of -/

/-- `t` holds the destination and the frame to send of `s`. -/
def SameFrame (s t : State) : Prop := t.motorAddr = s.motorAddr ∧ t.tx = s.tx

theorem SameFrame.trans {s t u : State} (h : SameFrame s t) (h' : SameFrame t u) : SameFrame s u :=
  ⟨h'.1.trans h.1, h'.2.trans h.2⟩

/-- Handing bytes over reads the transmit registers and writes none of them (R136, R197, R198). -/
theorem sendByte_sameFrame {id : Byte} {f : Message} {s t : State} (h : sendByte id f s = .next t) :
    SameFrame s t := by
  rcases sendByte_cases h with ⟨-, rfl⟩ | ⟨-, -, -, rfl⟩ | ⟨-, -, -, rfl⟩ | ⟨-, -, -, rfl⟩ | ⟨-, -, rfl⟩ <;>
    simp [SameFrame]

/-- A received byte completes DECODE only as the second checksum byte, with checksums that agree (R144, R145). -/
theorem receiveByte_frameIn {b : Byte} {s u : State} (h : receiveByte b s = .frameIn u) :
    s.rxIdx.val = hdrLen + 1 + s.rx.pcount.val ∧ u = checksumLow b s ∧ u.rxCk = u.rxSum := by
  rcases receiveByte_cases b s with ⟨-, hc⟩ | ⟨-, hc⟩ | ⟨-, -, hc⟩ | ⟨-, hc⟩ | ⟨hi, hc⟩ | ⟨-, hc⟩ <;>
    rw [hc] at h
  case inr.inl =>
    rcases checkLength_cases (headerByte b s) with ⟨-, hk⟩ | ⟨-, hk⟩ <;> rw [hk] at h <;> cases h
  case inr.inr.inr.inr.inl =>
    rcases compareChecksum_cases (checksumLow b s) with ⟨he, hk⟩ | ⟨-, hk⟩ <;> rw [hk] at h <;> cases h
    exact ⟨hi, rfl, he⟩
  all_goals cases h

/-- A received byte ends the call in two ways: the length check and the checksum comparison (R142, R145). -/
theorem receiveByte_ended {b : Byte} {s u : State} (h : receiveByte b s = .ended u) :
    (s.rxIdx.val = 8 ∧ u = raise .malformed (headerByte b s)) ∨
    (s.rxIdx.val = hdrLen + 1 + s.rx.pcount.val ∧
      u = raise (.checksum (checksumLow b s).rxSum (checksumLow b s).rxCk) (checksumLow b s)) := by
  rcases receiveByte_cases b s with ⟨-, hc⟩ | ⟨hi, hc⟩ | ⟨-, -, hc⟩ | ⟨-, hc⟩ | ⟨hi, hc⟩ | ⟨-, hc⟩ <;>
    rw [hc] at h
  case inr.inl =>
    rcases checkLength_cases (headerByte b s) with ⟨-, hk⟩ | ⟨-, hk⟩ <;> rw [hk] at h <;> cases h
    exact Or.inl ⟨hi, rfl⟩
  case inr.inr.inr.inr.inl =>
    rcases compareChecksum_cases (checksumLow b s) with ⟨-, hk⟩ | ⟨-, hk⟩ <;> rw [hk] at h <;> cases h
    exact Or.inr ⟨hi, rfl⟩
  all_goals cases h

/-- Retrying and giving up both keep the frame that was refused (R202). -/
theorem answerNack_sameFrame (code : Byte) (s : State) : SameFrame s (answerNack code s) := by
  rcases answerNack_cases code s with ⟨-, he⟩ | ⟨-, he⟩ <;> simp [he, SameFrame]

theorem answerReport_sameFrame (p : List Byte) (s : State) : SameFrame s (answerReport p s) := by
  rcases answerReport_cases p s with ⟨_, he⟩ | ⟨_, he⟩ <;> simp [he, SameFrame]

/-- No answer of the device writes the frame registers (R200 to R214). -/
theorem dispatchResponse_sameFrame {s t : State} (hf : s.fsm = .await)
    (h : dispatchResponse s = .next t) : SameFrame s t := by
  rcases dispatchResponse_cases hf with ⟨-, -, he⟩ | ⟨-, -, he⟩ | ⟨-, -, he⟩ | ⟨-, -, he⟩ <;>
    rw [he] at h <;> cases h
  · simp [SameFrame]
  · exact answerNack_sameFrame _ s
  · exact answerReport_sameFrame _ s
  · simp [SameFrame]

/-- Nothing the core receives in AWAIT writes the frame registers (R141 to R146, R199). -/
theorem awaitEvent_sameFrame {s t : State} (hf : s.fsm = .await) (h : awaitEvent s = .next t) :
    SameFrame s t := by
  rcases awaitEvent_cases h with ⟨-, rfl⟩ | ⟨-, -, hm⟩ | ⟨-, -, he⟩ | ⟨-, -, u, hu, hd⟩ | ⟨-, -, rfl⟩
  · simp [SameFrame]
  · rw [receiveByte_more_frame hm]
    exact ⟨rfl, rfl⟩
  · rcases receiveByte_ended he with ⟨-, rfl⟩ | ⟨-, rfl⟩ <;> simp [SameFrame]
  · obtain ⟨-, rfl, -⟩ := receiveByte_frameIn hu
    have hbyte : SameFrame s (checksumLow s.input.rxData s) := by simp [SameFrame]
    exact hbyte.trans (dispatchResponse_sameFrame (by simpa using hf) hd)
  · exact ⟨rfl, rfl⟩

/-- Building a frame keeps MOTOR_ADDR, and writes the transmit registers only when it leaves for SPACE (R193, R210). -/
theorem issueMessage_frame (id : Byte) (f : Message) (s : State) :
    (issueMessage id f s).motorAddr = s.motorAddr ∧
      ((issueMessage id f s).fsm ≠ .space → (issueMessage id f s).tx = s.tx) := by
  rcases Nat.lt_or_ge maxPayload f.payload.length with hl | hl
  · simp [issueMessage_of_gt id f s hl]
  · simp [issueMessage_of_le id f s hl]

/-- A host command keeps MOTOR_ADDR, and the transmit registers unless it is accepted for SPACE (R192, R193, R210). -/
theorem acceptance_frame {s t : State} (hf : s.fsm = .idle)
    (h : exec (decodeHostCmd s.input.cmdOp s.input.cmdPos) s = .next t) :
    t.motorAddr = s.motorAddr ∧ (t.fsm ≠ .space → t.tx = s.tx) := by
  rcases acceptance_cases hf h with ⟨-, -, rfl⟩ | ⟨-, -, rfl⟩ | ⟨-, rfl⟩
  · simp
  · exact issueMessage_frame idMove _ (acceptCommand 0 s)
  · exact issueMessage_frame idQuery _ (acceptCommand 1 s)

/-- MOTOR_ADDR is kept, and the frame to send too unless the step accepts a command, from IDLE to SPACE (R27, R79). -/
def FrameKeptUnlessAccepted (s t : State) : Prop :=
  t.motorAddr = s.motorAddr ∧ (¬(s.fsm = .idle ∧ t.fsm = .space) → t.tx = s.tx)

theorem SameFrame.keptUnlessAccepted {s t : State} (h : SameFrame s t) : FrameKeptUnlessAccepted s t :=
  ⟨h.1, fun _ => h.2⟩

/-- In IDLE the event accepts a command or does nothing; in every other state it keeps the frame (R220). -/
theorem portEvent_frame {s t : State} (h : portEvent s = .next t) : FrameKeptUnlessAccepted s t := by
  cases hf : s.fsm <;> simp only [portEvent, hf] at h
  case idle =>
    split at h
    · obtain ⟨hmotor, htx⟩ := acceptance_frame hf h
      exact ⟨hmotor, fun hn => htx fun ht => hn ⟨hf, ht⟩⟩
    · cases h
      exact SameFrame.keptUnlessAccepted ⟨rfl, rfl⟩
  case xmit =>
    rw [transmitEvent_eq hf] at h
    exact (sendByte_sameFrame h).keptUnlessAccepted
  case await => exact (awaitEvent_sameFrame hf h).keptUnlessAccepted
  case done => split at h <;> cases h <;> exact SameFrame.keptUnlessAccepted ⟨rfl, rfl⟩
  all_goals
    cases h
    exact SameFrame.keptUnlessAccepted ⟨rfl, rfl⟩

/-- The timer transitions keep the frame, and the Tick and the end of the inputs around an event do not touch it (R170, R196, R204). -/
theorem step_frame {s t : State} (h : step s = .next t) (hr : isResetStep s = false) :
    FrameKeptUnlessAccepted s t := by
  rcases step_cases h with ⟨-, -, -, rfl⟩ | ⟨-, -, -, _, rfl⟩ | ⟨hd, hrst, -⟩ | ⟨-, -, u, hu, rfl⟩
  · exact SameFrame.keptUnlessAccepted ⟨rfl, rfl⟩
  · exact SameFrame.keptUnlessAccepted ⟨rfl, rfl⟩
  · rw [(isResetStep_iff s).mpr ⟨hd, hrst⟩] at hr
    cases hr
  · simpa [FrameKeptUnlessAccepted] using portEvent_frame hu

/-- Settles O47: a step keeps the registers (`step_frame`), and the wire image is a function of the transmit registers. -/
theorem frameKeptForRetransmission : Obligations.FrameKeptForRetransmission := by
  intro s t h hr
  obtain ⟨hmotor, htx⟩ := step_frame h hr
  exact ⟨hmotor, fun hn => ⟨htx hn, by rw [htx hn]⟩⟩

end Sys2Proof.Machine

/-! PROOFS. The encoding of 30_encoding.md: DECODE of the wire bytes of a frame, the message map, the length field, and the reserved bits of the combined byte (R92, R97, R110 to R112). -/

namespace Sys2Proof.Machine

/-! ### DECODE of a frame's bytes -/

/-- A LEN below 11 ends DECODE after the nine header bytes (R97, R142). -/
theorem decodeStream_of_short_len (m c n s0 s1 s2 d0 d1 d2 : Byte) (rest : List RxAnswer)
    (h : lenField (inv c) < overhead) :
    decodeStream ([m, c, n, s0, s1, s2, d0, d1, d2].map .byte ++ rest) = .error .malformed :=
  if_pos h

/-- A LEN that fits the payload bytes leaves the checksum comparison (R138, R143). -/
theorem decodeStream_of_len (m c n s0 s1 s2 d0 d1 d2 : Byte) (p : List Byte) (as : List RxAnswer)
    (h : lenField (inv c) = overhead + p.length) :
    decodeStream ([m, c, n, s0, s1, s2, d0, d1, d2].map .byte ++ (p.map .byte ++ as)) =
      decodeChecksum
        ⟨inv m, ⟨inv c, inv n, ⟨inv s0, inv s1, inv s2⟩, ⟨inv d0, inv d1, inv d2⟩, p.map inv⟩⟩
        ([m, c, n, s0, s1, s2, d0, d1, d2] ++ p) as := by
  have hge : ¬lenField (inv c) < overhead := by omega
  have hcount : lenField (inv c) - overhead = p.length := by omega
  simp only [List.map_cons, List.map_nil, List.cons_append, List.nil_append, decodeStream,
    if_neg hge, hcount, takeBytes_append]

/-- Header and payload of a well-formed frame are read back whole, whatever they hold (R112, R138). -/
theorem decodeStream_body (id : Byte) {f : Message} (h : f.wf = true) (as : List RxAnswer) :
    decodeStream ((bodyBytes id f).map .byte ++ as) = decodeChecksum ⟨id, f⟩ (bodyBytes id f) as := by
  obtain ⟨-, hlen⟩ := (wf_iff f).mp h
  have hread := decodeStream_of_len (inv id) (inv f.comb) (inv f.node) (inv f.src.b0) (inv f.src.b1)
    (inv f.src.b2) (inv f.dst.b0) (inv f.dst.b1) (inv f.dst.b2) (f.payload.map inv) as
    (by rw [inv_inv, List.length_map, hlen, overhead_eq])
  simp only [inv_inv, map_inv_inv] at hread
  exact hread

/-- The wire image of a well-formed frame decodes to it, and no more than the image is read (R100, R112, R138). -/
theorem decodeStream_wireImage (id : Byte) {f : Message} (h : f.wf = true) (rest : List RxAnswer) :
    decodeStream ((wireImage id f).map .byte ++ rest) = .ok (⟨id, f⟩, rest) := by
  simp [wireImage, decodeStream_body id h, decodeChecksum]

/-- The wire image alone, nothing after it (R100, R138). -/
theorem decodeStream_wireImage_alone (id : Byte) {f : Message} (h : f.wf = true) :
    decodeStream ((wireImage id f).map .byte) = .ok (⟨id, f⟩, []) := by
  simpa using decodeStream_wireImage id h []

/-- Two well-formed frames with the same wire image are the same frame. -/
theorem wireImage_injective {id id' : Byte} {f g : Message} (hf : f.wf = true) (hg : g.wf = true)
    (h : wireImage id f = wireImage id' g) : id = id' ∧ f = g := by
  have hd := decodeStream_wireImage_alone id hf
  rw [h, decodeStream_wireImage_alone id' hg] at hd
  simpa [eq_comm] using hd

/-! ### The message map -/

/-- Decoding the wire image of a well-formed frame is the message map on its ID (R92, R106). -/
theorem decode_wireImage (id : Byte) {f : Message} (h : f.wf = true) :
    decode (.frame (wireImage id f)) = messageOf id f := by
  simp only [decode, decodeFrame, decodeStream_wireImage_alone id h]
  cases messageOf id f <;> rfl

/-- The message map rejects exactly the IDs outside its five rows (R106, R109). -/
theorem messageOf_unknown_iff (id : Byte) (f : Message) :
    messageOf id f = .error (.unknownMessage id) ↔
      id ≠ idMove ∧ id ≠ idQuery ∧ id ≠ idPosreport ∧ id ≠ idNack ∧ id ≠ idAck := by
  unfold messageOf
  split_ifs <;> simp [*]

/-- Settles O5: DECODE reads a well-formed frame back whole (`decodeStream_wireImage_alone`), and what follows is the message map, which looks at the ID alone. -/
theorem wireImageDecodesByMessageId : Obligations.WireImageDecodesByMessageId := by
  intro id f h
  refine ⟨decodeStream_wireImage_alone id h, decode_wireImage id h, ?_⟩
  rw [decode_wireImage id h]
  exact messageOf_unknown_iff id f

/-! ### The length field -/

/-- Settles O3: the length check of DECODE, the payload check of ENCODE, and the two messages the engine builds (`moveMessage_eq`, `queryMessage_eq`). -/
theorem lengthErrors : Obligations.LengthErrors := by
  refine ⟨decodeStream_of_short_len, fun id ack node src dst p => encodeFrame_of_gt id ack node src dst, ?_⟩
  intro a t
  rw [moveMessage_eq, queryMessage_eq]
  exact ⟨rfl, rfl⟩

/-! ### The reserved bits of the combined byte -/

/-- ENCODE leaves bits 6:5 clear (R111): both ack values, all 21 lengths. -/
theorem combinedByte_reserved (ack : Bool) {n : Nat} (h : n ≤ maxPayload) :
    (combinedByte ack n).extractLsb' 5 2 = 0 := by
  unfold maxPayload at h
  interval_cases n <;> cases ack <;> rfl

/-- Of the combined byte only LEN takes part in well-formedness (R93, R111). -/
theorem wf_of_same_len {f : Message} {c : Byte} (h : f.wf = true)
    (hc : c.extractLsb' 0 5 = f.comb.extractLsb' 0 5) : ({ f with comb := c } : Message).wf = true := by
  obtain ⟨hp, hlen⟩ := (wf_iff f).mp h
  have hsame : lenField c = lenField f.comb := by rw [lenField, lenField, hc]
  exact (wf_iff _).mpr ⟨hp, hsame.trans hlen⟩

/-- Encoding a decoded frame again gives its bytes only when its reserved bits are clear (R111, R148). -/
theorem reserved_eq_zero_of_encodeFrame {id : Byte} {f : Message} (h : f.wf = true)
    (he : encodeFrame id (ackField f.comb) f.node f.src f.dst f.payload = .ok (wireImage id f)) :
    f.comb.extractLsb' 5 2 = 0 := by
  obtain ⟨hp, -⟩ := (wf_iff f).mp h
  rw [encodeFrame_of_le id _ _ _ _ hp, Except.ok.injEq] at he
  obtain ⟨-, hf⟩ := wireImage_injective (messageOfOperands_wf _ _ _ _ hp) h he
  have hcomb : combinedByte (ackField f.comb) f.payload.length = f.comb := congrArg Message.comb hf
  rw [← hcomb]
  exact combinedByte_reserved _ hp

/-- Another combined byte in RX_COMB, all else kept (R29). -/
def State.withRxComb (c : Byte) (s : State) : State := { s with rx := { s.rx with comb := c } }

theorem answerNack_withRxComb (c code : Byte) (s : State) :
    answerNack code (s.withRxComb c) = (answerNack code s).withRxComb c := by
  have hattempt : (s.withRxComb c).attempt = s.attempt := rfl
  unfold answerNack
  rw [hattempt]
  split <;> rfl

theorem answerReport_withRxComb (c : Byte) (p : List Byte) (s : State) :
    answerReport p (s.withRxComb c) = (answerReport p s).withRxComb c := by
  unfold answerReport
  split <;> rfl

/-- A received ACK where SET_POSITION expects it (R201). -/
theorem dispatchResponse_ack {s : State} (h : s.fsm = .await) (ho : s.cmdOp = 0) (hid : s.rx.msgid = idAck) :
    dispatchResponse s = .next (succeed s) := by
  simp [dispatchResponse, hid, messageOf_ack, exec, execAck, h, ho]

/-- A received NACK where SET_POSITION expects it (R202). -/
theorem dispatchResponse_nack {s : State} (h : s.fsm = .await) (ho : s.cmdOp = 0) (hid : s.rx.msgid = idNack) :
    dispatchResponse s = .next (answerNack (nackCode s.rx.message.payload) s) := by
  simp [dispatchResponse, hid, messageOf_nack, exec, execNack, h, ho]

/-- A received POSREPORT where GET_POSITION expects it (R212). -/
theorem dispatchResponse_posreport {s : State} (h : s.fsm = .await) (ho : s.cmdOp = 1)
    (hid : s.rx.msgid = idPosreport) :
    dispatchResponse s = .next (answerReport s.rx.message.payload s) := by
  simp [dispatchResponse, hid, messageOf_posreport, exec, execPosreport, h, ho]

/-- Any other message is a ProtocolError (R109, R205, R211). -/
theorem dispatchResponse_unexpected {s : State} (h : s.fsm = .await)
    (h0 : s.cmdOp = 0 → s.rx.msgid ≠ idAck ∧ s.rx.msgid ≠ idNack)
    (h1 : s.cmdOp = 1 → s.rx.msgid ≠ idPosreport) :
    dispatchResponse s = .next (unexpectedMessage s.rx.msgid s) := by
  rcases dispatchResponse_cases h with ⟨ho, hid, -⟩ | ⟨ho, hid, -⟩ | ⟨ho, hid, -⟩ | ⟨-, -, he⟩
  · exact absurd hid (h0 ho).1
  · exact absurd hid (h0 ho).2
  · exact absurd hid (h1 ho)
  · exact he

/-- The response dispatch does not look at RX_COMB and keeps it (R111). -/
theorem dispatchResponse_withRxComb {s : State} (h : s.fsm = .await) (c : Byte) :
    dispatchResponse (s.withRxComb c) = onNext (State.withRxComb c) (dispatchResponse s) := by
  have h' : (s.withRxComb c).fsm = .await := h
  rcases dispatchResponse_cases h with ⟨ho, hid, he⟩ | ⟨ho, hid, he⟩ | ⟨ho, hid, he⟩ | ⟨h0, h1, he⟩ <;>
    rw [he, onNext_next]
  · exact dispatchResponse_ack h' ho hid
  · rw [← answerNack_withRxComb]
    exact dispatchResponse_nack h' ho hid
  · rw [← answerReport_withRxComb]
    exact dispatchResponse_posreport h' ho hid
  · exact dispatchResponse_unexpected h' h0 h1

/-- Settles O9: `combinedByte_reserved` for what is written, `wf_of_same_len` for what is read, `dispatchResponse_withRxComb` for the dispatch, `reserved_eq_zero_of_encodeFrame` for encoding again. -/
theorem reservedBitsTakeNoPart : Obligations.ReservedBitsTakeNoPart := by
  refine ⟨fun ack n h => combinedByte_reserved ack h, ?_, fun s c h => dispatchResponse_withRxComb h c, ?_⟩
  · intro id f c h hc _
    exact ⟨decodeStream_wireImage_alone id h, decodeStream_wireImage_alone id (wf_of_same_len h hc)⟩
  · rintro id f w h hres he rfl
    exact hres (reserved_eq_zero_of_encodeFrame h he)

end Sys2Proof.Machine

/-! PROOFS. The pure codec of 40_codec.md: the complement, the sum of the wire bytes, the errors of DECODE in the order of the read, and the round trip (R130 to R138, R147, R148). -/

namespace Sys2Proof.Machine

/-! ### The complement (R130, R131) -/

/-- The complement flips every bit (R130). -/
theorem inv_eq_xor (b : Byte) : inv b = b ^^^ 0xFF := BitVec.xor_allOnes.symm

/-- Settles O1: `inv_inv`, `inv_toNat` and `inv_eq_xor`. -/
theorem invIsItsOwnInverse : Obligations.InvIsItsOwnInverse :=
  fun b => ⟨inv_inv b, inv_toNat b, inv_eq_xor b⟩

/-! ### The sum of the wire bytes (R132, R133) -/

/-- The combined byte as a number: both ack values, all 21 lengths (R96). -/
theorem combinedByte_toNat (ack : Bool) {n : Nat} (h : n ≤ maxPayload) :
    (combinedByte ack n).toNat = 128 * ack.toNat + (11 + n) := by
  unfold maxPayload at h
  interval_cases n <;> cases ack <;> rfl

/-- Bytes are at most 255 each. -/
theorem sum_toNat_le (w : List Byte) : (w.map BitVec.toNat).sum ≤ 255 * w.length := by
  induction w with
  | nil => rfl
  | cons b w ih =>
    have := b.isLt
    simp only [List.map_cons, List.sum_cons, List.length_cons]
    omega

/-- A sum of at most 29 bytes stays below 2^16, so the reduction of CHECKSUM does not change it (R133). -/
theorem checksum_toNat {w : List Byte} (h : w.length ≤ 29) :
    (checksum w).toNat = (w.map BitVec.toNat).sum := by
  have := sum_toNat_le w
  rw [checksum, BitVec.toNat_ofNat, Nat.mod_eq_of_lt (by omega)]

/-- The wire bytes of header and payload with the combined byte apart: it is the one byte that is not free (R91, R96). -/
theorem sum_bodyBytes (id : Byte) (f : Message) :
    ∃ others : List Byte, others.length = 8 + f.payload.length ∧
      ((bodyBytes id f).map BitVec.toNat).sum = (inv f.comb).toNat + (others.map BitVec.toNat).sum := by
  refine ⟨([id, f.node] ++ addrBytes f.src ++ addrBytes f.dst ++ f.payload).map inv, ?_, ?_⟩
  · simp [addrBytes]; omega
  · simp [bodyBytes, logicalBytes, addrBytes]; omega

/-- The sum for a frame ENCODE builds (R133): the combined byte alone gives the lower bound, and each payload byte adds up to 255 and takes one from the complement of LEN. -/
theorem sum_bodyBytes_bounds (id : Byte) (ack : Bool) (node : Byte) (src dst : Addr) {p : List Byte}
    (h : p.length ≤ 20) :
    96 ≤ ((bodyBytes id (messageOfOperands ack node src dst p)).map BitVec.toNat).sum ∧
      ((bodyBytes id (messageOfOperands ack node src dst p)).map BitVec.toNat).sum ≤ 7364 := by
  obtain ⟨others, hlen, hsum⟩ := sum_bodyBytes id (messageOfOperands ack node src dst p)
  have hcomb : (inv (messageOfOperands ack node src dst p).comb).toNat =
      255 - (128 * ack.toNat + (11 + p.length)) := by
    rw [inv_toNat, messageOfOperands, combinedByte_toNat ack h]
  have hothers := sum_toNat_le others
  have hack := Bool.toNat_le ack
  rw [hsum, hcomb]
  have hpayload : (messageOfOperands ack node src dst p).payload.length = p.length := rfl
  omega

/-- Settles O2: `sum_bodyBytes_bounds` for what ENCODE builds, `sum_toNat_le` and `checksum_toNat` for what DECODE sums; the two ends are reached by the frames of all ones and all zeros. -/
theorem checksumNeverWraps : Obligations.ChecksumNeverWraps := by
  refine ⟨fun id ack node src dst p h => ?_, by decide, by decide, fun c => ?_, fun w h => ?_,
    by decide, by decide⟩
  · obtain ⟨hmin, hmax⟩ := sum_bodyBytes_bounds id ack node src dst h
    refine ⟨hmin, hmax, ?_⟩
    rw [bodyBytes_length, hdrLen_eq]
    exact Nat.add_le_add_left h 9
  · have := lenField_lt c
    omega
  · have := sum_toNat_le w
    exact ⟨by omega, checksum_toNat h⟩

/-! ### The errors of DECODE, in the order of the read (R147) -/

/-- A header that ends early is a TransportError (R62, R138). -/
theorem decodeStream_of_short_header (h : List Byte) (rest : List RxAnswer) (hl : h.length < 9) :
    decodeStream (h.map .byte ++ .failure :: rest) = .error .transport := by
  match h with
  | [] | [_] | [_, _] | [_, _, _] | [_, _, _, _] | [_, _, _, _, _] | [_, _, _, _, _, _]
  | [_, _, _, _, _, _, _] | [_, _, _, _, _, _, _, _] => rfl
  | _ :: _ :: _ :: _ :: _ :: _ :: _ :: _ :: _ :: _ => simp at hl; omega

/-- A read failure at either checksum byte is a TransportError (R62, R138). -/
theorem decodeChecksum_of_failure (f : Frame) (w cks : List Byte) (rest : List RxAnswer)
    (h : cks.length < 2) : decodeChecksum f w (cks.map .byte ++ .failure :: rest) = .error .transport := by
  match cks with
  | [] | [_] => rfl
  | _ :: _ :: _ => simp at h

/-- A read failure before the payload and both checksum bytes are in is a TransportError (R62, R138). -/
theorem decodeStream_of_short_body (m c n s0 s1 s2 d0 d1 d2 : Byte) (p : List Byte)
    (rest : List RxAnswer) (hge : overhead ≤ lenField (inv c)) (h : p.length + 9 < lenField (inv c)) :
    decodeStream ([m, c, n, s0, s1, s2, d0, d1, d2].map .byte ++ (p.map .byte ++ .failure :: rest)) =
      .error .transport := by
  have hov := overhead_eq
  rcases Nat.lt_or_ge p.length (lenField (inv c) - overhead) with hshort | hlong
  · simp only [List.map_cons, List.map_nil, List.cons_append, List.nil_append, decodeStream,
      if_neg (Nat.not_lt.mpr hge), takeBytes_failure p rest _ hshort]
  · have hpayload : lenField (inv c) = overhead + (p.take (lenField (inv c) - overhead)).length := by
      rw [List.length_take]; omega
    conv_lhs =>
      rw [← List.take_append_drop (lenField (inv c) - overhead) p, List.map_append, List.append_assoc]
    rw [decodeStream_of_len _ _ _ _ _ _ _ _ _ _ _ hpayload]
    exact decodeChecksum_of_failure _ _ _ _ (by rw [List.length_drop]; omega)

/-- Nine bytes, written out. -/
theorem exists_of_length_nine {h : List Byte} (hl : h.length = 9) :
    ∃ m c n s0 s1 s2 d0 d1 d2, h = [m, c, n, s0, s1, s2, d0, d1, d2] := by
  match h, hl with
  | [m, c, n, s0, s1, s2, d0, d1, d2], _ => exact ⟨m, c, n, s0, s1, s2, d0, d1, d2, rfl⟩

/-- Settles O7: one lemma for each point of the read (`decodeStream_of_short_header`, `decodeStream_of_short_len`, `decodeStream_of_short_body`), and the comparison of the checksums at its end. -/
theorem decodeErrorsInOrder : Obligations.DecodeErrorsInOrder := by
  intro h p rest
  refine ⟨decodeStream_of_short_header h rest, fun hl hlen => ?_, fun hl hge hlen => ?_,
    fun hl hlen hi lo => ?_⟩ <;> obtain ⟨m, c, n, s0, s1, s2, d0, d1, d2, rfl⟩ := exists_of_length_nine hl
  · exact decodeStream_of_short_len m c n s0 s1 s2 d0 d1 d2 rest hlen
  · rw [List.map_append, List.append_assoc]
    exact decodeStream_of_short_body m c n s0 s1 s2 d0 d1 d2 p rest hge hlen
  · have hread := decodeStream_of_len m c n s0 s1 s2 d0 d1 d2 p ([hi, lo].map .byte ++ rest)
      (by rw [overhead_eq, Nat.add_comm]; exact hlen.symm)
    rw [List.map_append, List.map_append, List.append_assoc, List.append_assoc, hread]
    exact ⟨fun hne => if_neg hne, fun heq => ⟨_, if_pos heq⟩⟩

/-! ### What DECODE accepts (R148) -/

/-- Reads that succeed are bytes (R62). -/
theorem takeBytes_ok {n : Nat} {as rest : List RxAnswer} {bs : List Byte}
    (h : takeBytes n as = .ok (bs, rest)) : bs.length = n ∧ as = bs.map .byte ++ rest := by
  induction n generalizing as bs with
  | zero =>
    cases h
    exact ⟨rfl, rfl⟩
  | succ n ih =>
    match as with
    | [] | .failure :: _ => cases h
    | .byte b :: as =>
      rw [takeBytes] at h
      split at h
      · rename_i ht
        cases h
        obtain ⟨hlen, rfl⟩ := ih ht
        exact ⟨congrArg (· + 1) hlen, rfl⟩
      · cases h

/-- Checksum bytes that are accepted are the checksum (R138, R145). -/
theorem decodeChecksum_ok {f fr : Frame} {w : List Byte} {as rest : List RxAnswer}
    (h : decodeChecksum f w as = .ok (fr, rest)) :
    fr = f ∧ as = [hiByte (checksum w), loByte (checksum w)].map .byte ++ rest := by
  unfold decodeChecksum at h
  split at h
  · split at h
    · rename_i hck
      cases h
      rw [← hck]
      simp
    · cases h
  · cases h

/-- The wire bytes of a frame made of complemented bytes are those bytes (R130, R138). -/
theorem bodyBytes_of_inv (m c n s0 s1 s2 d0 d1 d2 : Byte) (p : List Byte) :
    bodyBytes (inv m)
        ⟨inv c, inv n, ⟨inv s0, inv s1, inv s2⟩, ⟨inv d0, inv d1, inv d2⟩, p.map inv⟩ =
      [m, c, n, s0, s1, s2, d0, d1, d2] ++ p :=
  map_inv_inv ([m, c, n, s0, s1, s2, d0, d1, d2] ++ p)

/-- What DECODE accepts is a well-formed frame, and the bytes it has read are the wire image of that frame (R138, R148). -/
theorem decodeStream_ok {as rest : List RxAnswer} {fr : Frame} (h : decodeStream as = .ok (fr, rest)) :
    fr.msg.wf = true ∧ as = (wireImage fr.id fr.msg).map .byte ++ rest := by
  unfold decodeStream at h
  split at h
  · split at h
    · cases h
    · split at h
      · cases h
      · rename_i m c _ _ _ _ _ _ _ _ _ _ _ _ ht
        obtain ⟨hlen, rfl⟩ := takeBytes_ok ht
        obtain ⟨rfl, rfl⟩ := decodeChecksum_ok h
        have hlt := lenField_lt (inv c)
        have hov := overhead_eq
        refine ⟨(wf_iff _).mpr ⟨?_, ?_⟩, ?_⟩
        · rw [List.length_map]; omega
        · change lenField (inv c) = _
          rw [List.length_map]; omega
        · rw [wireImage, bodyBytes_of_inv]
          simp
  · cases h

/-- With bits 6:5 clear the ack bit and LEN are the whole combined byte (R93, R111): all 256 bytes. -/
theorem combinedByte_of_reserved_clear :
    ∀ c : Byte, c.extractLsb' 5 2 = 0 → overhead ≤ lenField c →
      combinedByte (ackField c) (lenField c - overhead) = c := by decide

/-- A frame whose bits 6:5 are clear is encoded again as it was (R135, R148). -/
theorem encodeFrame_of_reserved_clear (id : Byte) {f : Message} (h : f.wf = true)
    (hres : f.comb.extractLsb' 5 2 = 0) :
    encodeFrame id (ackField f.comb) f.node f.src f.dst f.payload = .ok (wireImage id f) := by
  obtain ⟨hp, hlen⟩ := (wf_iff f).mp h
  have hov := overhead_eq
  have hcomb := combinedByte_of_reserved_clear f.comb hres (by omega)
  rw [show lenField f.comb - overhead = f.payload.length by omega] at hcomb
  rw [encodeFrame_of_le id _ _ _ _ hp, messageOfOperands, hcomb]

/-- Answers that are all bytes, then the rest, say which bytes they are. -/
theorem bytes_append_right_inj {v w : List Byte} {rest : List RxAnswer}
    (h : v.map RxAnswer.byte ++ rest = w.map RxAnswer.byte ++ rest) : v = w :=
  List.map_injective_iff.mpr (fun _ _ => RxAnswer.byte.inj) (List.append_cancel_right h)

/-- Settles O4: the operands make a well-formed message, which is read back whole (`decodeStream_wireImage`); conversely the bytes read are the wire image of the frame (`decodeStream_ok`), which ENCODE gives again exactly when bits 6:5 are clear. -/
theorem frameRoundTrip : Obligations.FrameRoundTrip := by
  refine ⟨fun id ack node src dst p rest hp => ?_, fun as rest fr h => ?_⟩
  · refine ⟨_, encodeFrame_of_le id ack node src dst hp, wireImage_length _ _, ?_⟩
    exact decodeStream_wireImage id (messageOfOperands_wf ack node src dst hp) rest
  · obtain ⟨hwf, rfl⟩ := decodeStream_ok h
    constructor
    · rintro ⟨w, hw, has⟩
      rw [← bytes_append_right_inj has] at hw
      exact reserved_eq_zero_of_encodeFrame hwf hw
    · exact fun hres => ⟨_, encodeFrame_of_reserved_clear fr.id hwf hres, rfl⟩

end Sys2Proof.Machine

/-! PROOFS. The byte-serial DECODE of 40_codec.md: one received byte, and the reception of a frame (R140 to R146). -/

namespace Sys2Proof.Machine

/-! ### One byte of DECODE, byte-serial (R141 to R145) -/

/-- Header bytes 0 to 7 are stored and counted, and more are wanted (R141). -/
theorem receiveByte_header (b : Byte) {s : State} (h : s.rxIdx.val < 8) :
    receiveByte b s = .more (headerByte b s) := if_pos h

/-- RX_COMB is in before the ninth byte, which leaves it alone (R141, R142). -/
theorem headerByte_comb_of_ninth (b : Byte) {s : State} (h : s.rxIdx.val = 8) :
    (headerByte b s).rx.comb = s.rx.comb := by
  simp [h, storeHeader]

/-- The ninth byte with LEN below 11 ends the call, the byte stored and counted (R142). -/
theorem receiveByte_ninth_short (b : Byte) {s : State} (h : s.rxIdx.val = 8)
    (hlen : lenField s.rx.comb < overhead) :
    receiveByte b s = .ended (raise .malformed (headerByte b s)) := by
  rw [← headerByte_comb_of_ninth b h] at hlen
  simp only [receiveByte, h, checkLength, if_pos hlen]
  simp

/-- The ninth byte with any other LEN gives RX_PCOUNT (R142). -/
theorem receiveByte_ninth (b : Byte) {s : State} (h : s.rxIdx.val = 8)
    (hlen : overhead ≤ lenField s.rx.comb) :
    receiveByte b s = .more { headerByte b s with
      rx := { (headerByte b s).rx with pcount := payloadCount s.rx.comb } } := by
  rw [← headerByte_comb_of_ninth b h] at hlen ⊢
  simp only [receiveByte, h, checkLength, if_neg (Nat.not_lt.mpr hlen)]
  simp

/-- A byte after the header and within RX_PCOUNT is payload (R143). -/
theorem receiveByte_payload (b : Byte) {s : State} (h9 : hdrLen ≤ s.rxIdx.val)
    (h : s.rxIdx.val < hdrLen + s.rx.pcount.val) : receiveByte b s = .more (payloadByte b s) := by
  rw [hdrLen_eq] at h9
  rw [receiveByte, if_neg (by omega), if_neg (by omega), if_pos h]

/-- The byte after the payload is the high checksum byte (R144). -/
theorem receiveByte_checksumHigh (b : Byte) {s : State}
    (h : s.rxIdx.val = hdrLen + s.rx.pcount.val) : receiveByte b s = .more (checksumHigh b s) := by
  have h9 := hdrLen_eq
  rw [receiveByte, if_neg (by omega), if_neg (by omega), if_neg (by omega), if_pos h]

/-- The last byte is the low checksum byte, and the comparison follows it at once (R144, R145). -/
theorem receiveByte_checksumLow (b : Byte) {s : State}
    (h : s.rxIdx.val = hdrLen + 1 + s.rx.pcount.val) :
    receiveByte b s = compareChecksum (checksumLow b s) := by
  have h9 := hdrLen_eq
  rw [receiveByte, if_neg (by omega), if_neg (by omega), if_neg (by omega), if_neg (by omega), if_pos h]

/-- Settles O29: the byte goes to its register by `storeHeader`, and the ninth is followed by the length check. -/
theorem headerByteStored : Obligations.HeaderByteStored := by
  intro s b _
  refine ⟨storeHeader s.rxIdx (~~~b) s.rx, ?_, ?_, ?_, ?_, ?_, ?_, ?_, ?_, ?_, ?_, ?_, ?_⟩
  iterate 9 exact fun h => by rw [h]; rfl
  · exact fun h => receiveByte_header b h
  · exact fun h hlen => receiveByte_ninth_short b (congrArg Fin.val h) hlen
  · exact fun h hlen => ⟨payloadCount s.rx.comb, Nat.sub_add_cancel hlen,
      receiveByte_ninth b (congrArg Fin.val h) hlen⟩

/-- Settles O30: one lemma a kind of byte, and the comparison of R145. -/
theorem payloadAndChecksumBytes : Obligations.PayloadAndChecksumBytes := by
  intro s b h9
  refine ⟨fun k hk hcount => ?_, fun h => receiveByte_checksumHigh b h, ?_⟩
  · have hbyte := receiveByte_payload b h9 (by rw [hdrLen_eq]; omega)
    have hreg : s.rx.payload.setIfInBounds (s.rxIdx.val - hdrLen) (inv b) = s.rx.payload.set k (inv b) := by
      rw [show s.rxIdx.val - hdrLen = k.val by rw [hdrLen_eq]; omega]
      exact Vector.ext fun i hi => by simp [Vector.getElem_set, Vector.getElem_setIfInBounds]
    rw [hbyte, payloadByte, hreg]
    rfl
  · rintro h ck rfl
    rw [receiveByte_checksumLow b (by rw [hdrLen_eq]; omega), compareChecksum]
    exact ⟨fun heq => if_pos heq, fun hne => if_neg hne⟩

/-! ### The receive registers as wire bytes (R29, R91) -/

/-- Header and payload say which frame they are of (R91). -/
theorem bodyBytes_injective {id id' : Byte} {f g : Message} (h : bodyBytes id f = bodyBytes id' g) :
    id = id' ∧ f = g := by
  have hl : logicalBytes id f = logicalBytes id' g :=
    List.map_injective_iff.mpr (fun _ _ => inv_injective) h
  obtain ⟨c, n, ⟨s0, s1, s2⟩, ⟨d0, d1, d2⟩, p⟩ := f
  obtain ⟨c', n', ⟨s0', s1', s2'⟩, ⟨d0', d1', d2'⟩, p'⟩ := g
  simpa [logicalBytes, addrBytes, and_assoc] using hl

/-- The header and payload bytes the receive registers stand for, as they came over the wire (R29, R141, R143). -/
def RxFrame.wire (r : RxFrame) : List Byte := bodyBytes r.msgid r.message

/-- The nine header bytes the receive registers stand for, as they came over the wire (R91, R141). -/
def RxFrame.wireHeader (r : RxFrame) : List Byte :=
  [r.msgid, r.comb, r.node, r.src.b0, r.src.b1, r.src.b2, r.dst.b0, r.dst.b1, r.dst.b2].map inv

/-- The wire bytes of header, then payload, from the registers (R91). -/
theorem rxWire_eq (r : RxFrame) :
    r.wire = r.wireHeader ++ (r.payload.toList.take r.pcount).map inv := by
  simp [RxFrame.wire, bodyBytes, logicalBytes, addrBytes, RxFrame.message, RxFrame.wireHeader]

/-- The header, then the payload registers filled so far (R91). -/
theorem rxWire_take_payload (r : RxFrame) {k : Nat} (h : k ≤ r.pcount.val) :
    r.wire.take (hdrLen + k) = r.wireHeader ++ (r.payload.toList.take k).map inv := by
  have hh : r.wireHeader.length = hdrLen := rfl
  rw [rxWire_eq, ← hh, List.take_length_add_append, ← List.map_take, List.take_take, Nat.min_eq_left h]

/-- A header byte comes after the bytes already in the registers (R141). -/
theorem rxWire_storeHeader {i : Nat} (h : i < hdrLen) (b : Byte) (r : RxFrame) :
    (storeHeader i (inv b) r).wire.take (i + 1) = r.wire.take i ++ [b] := by
  rw [hdrLen_eq] at h
  interval_cases i <;> simp [rxWire_eq, RxFrame.wireHeader, storeHeader]

/-- RX_PCOUNT is no part of the header (R142). -/
theorem rxWire_setPcount (n : Fin 21) (r : RxFrame) :
    ({ r with pcount := n } : RxFrame).wire.take hdrLen = r.wire.take hdrLen :=
  (rxWire_take_payload { r with pcount := n } n.val.zero_le).trans
    (rxWire_take_payload r r.pcount.val.zero_le).symm

/-- A payload byte comes after the bytes already in the registers (R143). -/
theorem rxWire_setPayload {k : Nat} (b : Byte) (r : RxFrame) (h : k < r.pcount.val) :
    ({ r with payload := r.payload.setIfInBounds k (inv b) } : RxFrame).wire.take (hdrLen + k + 1) =
      r.wire.take (hdrLen + k) ++ [b] := by
  have hk : k < r.payload.toList.length := by have := r.pcount.isLt; simp; omega
  rw [Nat.add_assoc,
    rxWire_take_payload { r with payload := r.payload.setIfInBounds k (inv b) } (k := k + 1) h,
    rxWire_take_payload r h.le, Vector.toList_setIfInBounds, List.take_succ_eq_append_getElem (by simpa using hk)]
  simp [RxFrame.wireHeader, List.take_set_of_le (Nat.le_refl k)]

/-! ### The reception of a frame (R140 to R146) -/

/-- The first `i` header and payload bytes of the frame `id`, `f` are in the receive registers (R141 to R143). -/
structure BodyReceived (id : Byte) (f : Message) (i : Nat) (s : State) : Prop where
  index : s.rxIdx.val = i
  bytes : s.rx.wire.take i = (bodyBytes id f).take i
  sum   : s.rxSum = checksum ((bodyBytes id f).take i)
  count : hdrLen ≤ i → s.rx.pcount.val = f.payload.length

/-- DECODE begins with nothing received (R140). -/
theorem bodyReceived_zero (id : Byte) (f : Message) {s : State} (hi : s.rxIdx = 0) (hs : s.rxSum = 0) :
    BodyReceived id f 0 s where
  index := by simp [hi]
  bytes := rfl
  sum := hs
  count := fun h => absurd h (by decide)

/-- The Tick before an event is no matter of DECODE (R170). -/
theorem BodyReceived.tickIf {id : Byte} {f : Message} {i : Nat} {s : State}
    (h : BodyReceived id f i s) (b : Bool) : BodyReceived id f i (tickIf b s) where
  index := by simp [h.index]
  bytes := by simp [h.bytes]
  sum := by simp [h.sum]
  count := fun hi => by simp [h.count hi]

/-- From the second byte on RX_COMB is that of the frame (R141). -/
theorem BodyReceived.comb {id : Byte} {f : Message} {i : Nat} {s : State}
    (h : BodyReceived id f i s) (hi : 1 < i) : s.rx.comb = f.comb := by
  have hbyte := congrArg (·[1]?) h.bytes
  simp only [List.getElem?_take_of_lt hi] at hbyte
  exact inv_injective (Option.some.inj hbyte)

/-- One more byte stored and counted is one more byte received. -/
theorem BodyReceived.succ {id : Byte} {f : Message} {i : Nat} {s u : State}
    (h : BodyReceived id f i s) (hf : f.wf = true) (hi : i < (bodyBytes id f).length)
    (hidx : u.rxIdx = s.rxIdx + 1) (hsum : u.rxSum = s.rxSum + (bodyBytes id f)[i].setWidth 16)
    (hwire : u.rx.wire.take (i + 1) = s.rx.wire.take i ++ [(bodyBytes id f)[i]])
    (hcount : hdrLen ≤ i + 1 → u.rx.pcount.val = f.payload.length) : BodyReceived id f (i + 1) u where
  index := by
    obtain ⟨hp, -⟩ := (wf_iff f).mp hf
    rw [bodyBytes_length, hdrLen_eq] at hi
    rw [hidx, index_succ _ (by rw [h.index]; omega), h.index]
  bytes := by rw [hwire, h.bytes, List.take_succ_eq_append_getElem hi]
  sum := by rw [hsum, h.sum, checksum_take_succ _ i hi]
  count := hcount

/-- The next byte of the frame is stored where it belongs: a header byte, the ninth with the length check passed, or a payload byte (R141 to R143). -/
theorem receiveByte_body {id : Byte} {f : Message} {i : Nat} {s : State} (hf : f.wf = true)
    (h : BodyReceived id f i s) (hi : i < (bodyBytes id f).length) :
    ∃ u, receiveByte (bodyBytes id f)[i] s = .more u ∧ BodyReceived id f (i + 1) u := by
  have hidx := h.index
  have h9 := hdrLen_eq
  obtain ⟨hp, hlen⟩ := (wf_iff f).mp hf
  rcases Nat.lt_trichotomy i 8 with hlt | rfl | hgt
  · refine ⟨_, receiveByte_header _ (by omega), h.succ hf hi rfl rfl ?_ (by omega)⟩
    simp only [headerByte_fields, hidx]
    exact rxWire_storeHeader (by omega) _ _
  · have hcomb := h.comb (by omega)
    refine ⟨_, receiveByte_ninth _ hidx (by rw [hcomb, hlen, overhead_eq]; omega),
      h.succ hf hi rfl rfl ?_ fun _ => ?_⟩
    · rw [show 8 + 1 = hdrLen from rfl, rxWire_setPcount]
      simp only [headerByte_fields, hidx]
      exact rxWire_storeHeader (by omega) _ _
    · simp [payloadCount, hcomb, hlen, overhead_eq]
  · have hcount := h.count (by omega)
    rw [bodyBytes_length] at hi
    obtain ⟨k, rfl⟩ : ∃ k, i = hdrLen + k := ⟨i - hdrLen, by omega⟩
    have hk : s.rxIdx.val - hdrLen = k := by omega
    refine ⟨_, receiveByte_payload _ (by omega) (by omega),
      h.succ hf (by simpa using hi) rfl rfl ?_ fun _ => hcount⟩
    simp only [payloadByte_fields, hk]
    exact rxWire_setPayload _ _ (by omega)

/-- Everything but the registers of DECODE, the two counters and the coming inputs is as it was (R140 to R145, R170). -/
def KeptInReception (s t : State) : Prop :=
  t = { s with
    spaceCnt := t.spaceCnt, backoffCnt := t.backoffCnt
    rx := t.rx, rxIdx := t.rxIdx, rxSum := t.rxSum, rxCk := t.rxCk, env := t.env }

theorem KeptInReception.refl (s : State) : KeptInReception s s := rfl

theorem KeptInReception.trans {s t u : State} (h : KeptInReception s t) (h' : KeptInReception t u) :
    KeptInReception s u := by
  unfold KeptInReception at *
  rw [h', h]

/-- A byte that leaves DECODE unfinished writes only registers of DECODE (R141 to R144). -/
theorem keptInReception_of_more {b : Byte} {s u : State} (h : receiveByte b s = .more u) :
    KeptInReception s u := by
  rw [receiveByte_more_frame h]
  rfl

/-- A Tick writes only the two counters (R170). -/
theorem keptInReception_tickIf (b : Bool) (s : State) : KeptInReception s (tickIf b s) := by
  cases b <;> rfl

theorem keptInReception_dropInput (s : State) : KeptInReception s (dropInput s) := rfl

/-- A moment that delivers a byte: no reset, no failure, `rx_valid` high (R41, R62). -/
def Inputs.delivers (e : Inputs) : Prop := e.rst = false ∧ e.rxErr = false ∧ e.rxValid = true

/-- In AWAIT a delivered byte goes to DECODE after its Tick, and the moment is over (R141, R170). -/
theorem step_of_delivers {s : State} {e : Inputs} {es : List Inputs} (hf : s.fsm = .await)
    (henv : s.env = e :: es) (he : e.delivers) :
    step s = onNext dropInput (afterByte (receiveByte e.rxData (tickIf e.tick s))) := by
  obtain ⟨hrst, herr, hvalid⟩ := he
  have hin : s.input = e := by simp [State.input, henv]
  rw [step_event (timerDone_await hf) (by rw [hin, hrst])]
  simp [portEvent, awaitEvent, hf, hin, herr, hvalid]

/-- One step of a reception that goes on. -/
theorem step_of_more {s u : State} {e : Inputs} {es : List Inputs} (hf : s.fsm = .await)
    (henv : s.env = e :: es) (he : e.delivers)
    (hu : receiveByte e.rxData (tickIf e.tick s) = .more u) :
    step s = .next (dropInput u) ∧ KeptInReception s (dropInput u) ∧ (dropInput u).env = es := by
  have hkept := keptInReception_of_more hu
  refine ⟨by rw [step_of_delivers hf henv he, hu]; rfl,
    ((keptInReception_tickIf e.tick s).trans hkept).trans (keptInReception_dropInput u), ?_⟩
  have henvu : u.env = (tickIf e.tick s).env := by rw [receiveByte_more_frame hu]
  simp [henvu, henv]

/-- The registers a reception keeps, one by one. -/
theorem KeptInReception.fields {s t : State} (h : KeptInReception s t) :
    t.fsm = s.fsm ∧ t.cmdOp = s.cmdOp ∧ t.attempt = s.attempt ∧ t.tx = s.tx ∧ t.txOut = s.txOut ∧
      t.res = s.res ∧ t.motorAddr = s.motorAddr := by
  unfold KeptInReception at h
  rw [h]
  exact ⟨rfl, rfl, rfl, rfl, rfl, rfl, rfl⟩

theorem KeptInReception.fsm {s t : State} (h : KeptInReception s t) : t.fsm = s.fsm := h.fields.1

/-- A run of one step is that step, whatever its outcome. -/
theorem runFor_one (s : State) : runFor 1 s = step s := by
  unfold runFor
  cases step s <;> rfl

/-- The rest of header and payload, delivered byte by byte, is received, and the call goes on (R141 to R143). -/
theorem runFor_body {id : Byte} {f : Message} (hf : f.wf = true) (es rest : List Inputs) :
    ∀ {i : Nat} {s : State}, BodyReceived id f i s → s.fsm = .await → s.env = es ++ rest →
      es.map Inputs.rxData = (bodyBytes id f).drop i → (∀ e ∈ es, e.delivers) →
      ∃ t, runFor es.length s = .next t ∧ BodyReceived id f (i + es.length) t ∧
        KeptInReception s t ∧ t.env = rest := by
  induction es with
  | nil => exact fun h _ henv _ _ => ⟨_, rfl, h, .refl _, henv⟩
  | cons e es ih =>
    intro i s h hs henv hes hdel
    have hi : i < (bodyBytes id f).length := by
      by_contra hge
      rw [List.drop_eq_nil_of_le (by omega)] at hes
      cases hes
    rw [List.drop_eq_getElem_cons hi, List.map_cons, List.cons.injEq] at hes
    obtain ⟨hbyte, hes⟩ := hes
    obtain ⟨he, hdel⟩ := List.forall_mem_cons.mp hdel
    obtain ⟨u, hu, hrec⟩ := receiveByte_body hf (h.tickIf e.tick) hi
    rw [← hbyte] at hu
    obtain ⟨hstep, hkept, henvu⟩ := step_of_more hs henv he hu
    have hdrop : BodyReceived id f (i + 1) (dropInput u) := ⟨hrec.index, hrec.bytes, hrec.sum, hrec.count⟩
    obtain ⟨t, hrun, ht, hkt, henvt⟩ := ih hdrop (hkept.fsm.trans hs) henvu hes hdel
    refine ⟨t, (runFor_succ_of_step hstep).trans hrun, ?_, hkept.trans hkt, henvt⟩
    rwa [List.length_cons, Nat.add_comm es.length, ← Nat.add_assoc]

/-- The frame `id`, `f` is in the receive registers with the checksum bytes `ck`, and RX_SUM is ready for the comparison of R145. -/
structure FrameReceived (id : Byte) (f : Message) (ck : Word16) (s : State) : Prop where
  msgid   : s.rx.msgid = id
  message : s.rx.message = f
  pcount  : s.rx.pcount.val = f.payload.length
  index   : s.rxIdx.val = 11 + f.payload.length
  sum     : s.rxSum = checksum (bodyBytes id f)
  ck      : s.rxCk = ck

/-- With all header and payload bytes received the receive registers stand for the frame. -/
theorem BodyReceived.wire_eq {id : Byte} {f : Message} {s : State}
    (h : BodyReceived id f (bodyBytes id f).length s) : s.rx.wire = bodyBytes id f := by
  have hcount := h.count (by simp)
  have hlen : s.rx.wire.length = (bodyBytes id f).length := by
    simp [RxFrame.wire, hcount]
  have hbytes := h.bytes
  rwa [List.take_length, ← hlen, List.take_length] at hbytes

/-- The two checksum bytes after a body that is in (R144). -/
theorem checksum_bytes_received {id : Byte} {f : Message} {s : State} (hf : f.wf = true)
    (h : BodyReceived id f (bodyBytes id f).length s) (hs : s.fsm = .await)
    {e₁ e₂ : Inputs} {rest : List Inputs} (henv : s.env = e₁ :: e₂ :: rest)
    (h₁ : e₁.delivers) (h₂ : e₂.delivers) :
    ∃ t, runFor 2 s = onNext dropInput (afterByte (compareChecksum t)) ∧
      FrameReceived id f (u16be e₁.rxData e₂.rxData) t ∧ KeptInReception s t ∧ t.env.tail = rest := by
  obtain ⟨hid, hmsg⟩ := bodyBytes_injective h.wire_eq
  have hcount := h.count (by simp)
  have hlen := bodyBytes_length id f
  obtain ⟨hp, -⟩ := (wf_iff f).mp hf
  have h9 := hdrLen_eq
  have hidx := h.index
  have hhigh := receiveByte_checksumHigh e₁.rxData (s := tickIf e₁.tick s) (by simp; omega)
  obtain ⟨hstep, hkept, henvu⟩ := step_of_more hs henv h₁ hhigh
  set u := dropInput (checksumHigh e₁.rxData (tickIf e₁.tick s)) with hu
  have hidxu : u.rxIdx.val = (bodyBytes id f).length + 1 := by
    simp only [hu, dropInput_fields, checksumHigh_fields, tickIf_fields]
    rw [index_succ _ (by omega), hidx]
  have hrxu : u.rx = s.rx := by simp [hu]
  have hlow := receiveByte_checksumLow e₂.rxData (s := tickIf e₂.tick u)
    (by simp only [tickIf_fields]; rw [hrxu]; omega)
  refine ⟨checksumLow e₂.rxData (tickIf e₂.tick u), ?_, ?_, ?_, ?_⟩
  · rw [runFor_succ_of_step hstep, runFor_one, step_of_delivers (hkept.fsm.trans hs) henvu h₂, hlow]
  · refine ⟨by simpa [hrxu] using hid, by simpa [hrxu] using hmsg, by simpa [hrxu] using hcount, ?_, ?_, ?_⟩
    · simp only [checksumLow_fields, tickIf_fields]
      rw [index_succ _ (by omega)]
      omega
    · have := h.sum
      rw [List.take_length] at this
      simpa [hu] using this
    · simp [hu]
  · exact (hkept.trans (keptInReception_tickIf e₂.tick u)).trans rfl
  · simp [henvu]

/-- A whole frame with any two checksum bytes, delivered to a DECODE that begins, comes to the comparison of the checksums (R140 to R145). -/
theorem runFor_frame {id : Byte} {f : Message} {hi lo : Byte} {s : State} {es rest : List Inputs}
    (hf : f.wf = true) (hs : s.fsm = .await) (hidx : s.rxIdx = 0) (hsum : s.rxSum = 0)
    (henv : s.env = es ++ rest) (hes : es.map Inputs.rxData = bodyBytes id f ++ [hi, lo])
    (hdel : ∀ e ∈ es, e.delivers) :
    ∃ t, runFor (11 + f.payload.length) s = onNext dropInput (afterByte (compareChecksum t)) ∧
      FrameReceived id f (u16be hi lo) t ∧ KeptInReception s t ∧ t.env.tail = rest := by
  obtain ⟨body, cks, rfl, hbody, hcks⟩ := List.map_eq_append_iff.mp hes
  obtain ⟨e₁, e₂, rfl, rfl, rfl⟩ : ∃ e₁ e₂, cks = [e₁, e₂] ∧ e₁.rxData = hi ∧ e₂.rxData = lo := by
    simpa [List.map_eq_cons_iff] using hcks
  obtain ⟨hdelBody, hdelCks⟩ := List.forall_mem_append.mp hdel
  obtain ⟨h₁, h₂, -⟩ : e₁.delivers ∧ e₂.delivers ∧ True := by simpa using hdelCks
  have hlen : body.length = (bodyBytes id f).length := by rw [← hbody, List.length_map]
  obtain ⟨u, hrun, hrec, hkept, henvu⟩ := runFor_body hf body ([e₁, e₂] ++ rest)
    (bodyReceived_zero id f hidx hsum) hs (by rw [henv, List.append_assoc]) hbody hdelBody
  rw [Nat.zero_add, hlen] at hrec
  obtain ⟨t, hrun2, ht, hkt, henvt⟩ :=
    checksum_bytes_received hf hrec (hkept.fsm.trans hs) henvu h₁ h₂
  refine ⟨t, ?_, ht, hkept.trans hkt, henvt⟩
  have hsteps : 11 + f.payload.length = body.length + 2 := by
    rw [hlen, bodyBytes_length, hdrLen_eq]; omega
  rw [hsteps, runFor_add hrun, hrun2]

/-- Settles O50: `runFor_frame` with the checksum bytes of the wire image, which compare equal (R146). -/
theorem receptionDecodesFrame : Obligations.ReceptionDecodesFrame := by
  intro s es rest id f hs hidx hsum _ hf henv hes hdel
  obtain ⟨t, hrun, ht, hkept, henvt⟩ := runFor_frame hf hs hidx hsum henv hes hdel
  have hck : t.rxCk = t.rxSum := by rw [ht.ck, ht.sum, u16be_hi_lo]
  obtain ⟨hfsm, hop, hattempt, htx, hout, hres, hmotor⟩ := hkept.fields
  refine ⟨t, ?_, ht.msgid, ht.message, ht.pcount, ht.index, ht.sum, hck, henvt, hfsm.trans hs,
    hop, hattempt, htx, hout, hres, hmotor⟩
  rw [hrun, compareChecksum, if_pos hck]
  rfl

end Sys2Proof.Machine

/-! PROOFS. The scheduler of 41_scheduler.md: the Tick, where SPACE_CNT is armed, and the spacing of writes (R170, R172, R173, R176). -/

namespace Sys2Proof.Machine

/-! ### The Tick (R170) -/

/-- Falling by one and stopping at 0 is the subtraction of natural numbers. -/
theorem sub_one_eq_ite (n : Nat) : n - 1 = if 0 < n then n - 1 else n := by
  split <;> omega

/-- Settles O32: `tick` stops each counter at 0 (`sub_one_eq_ite`) and looks at FSM for BACKOFF_CNT alone (`tick_backoffCnt`); the order at an edge is `step_event`. -/
theorem tickLowersTheCounters : Obligations.TickLowersTheCounters := by
  intro s
  refine ⟨?_, fun hd hr => step_event hd hr⟩
  have hbackoff : (tick s).backoffCnt =
      if s.fsm = .backoff ∧ 0 < s.backoffCnt then s.backoffCnt - 1 else s.backoffCnt := by
    rw [tick_backoffCnt, ite_and, ← sub_one_eq_ite]
  rw [← sub_one_eq_ite, ← hbackoff]
  rfl

/-! ### What an event does to the spacing (R172, R173) -/

/-- SPACE_CNT is as it was, and XMIT is neither entered nor left. -/
def KeepsSpacing (s t : State) : Prop := t.spaceCnt = s.spaceCnt ∧ (t.fsm = .xmit ↔ s.fsm = .xmit)

theorem KeepsSpacing.refl (s : State) : KeepsSpacing s s := ⟨rfl, Iff.rfl⟩

theorem KeepsSpacing.trans {s t u : State} (h : KeepsSpacing s t) (h' : KeepsSpacing t u) :
    KeepsSpacing s u := ⟨h'.1.trans h.1, h'.2.trans h.2⟩

/-- SPACE_ARM at the end of a write: its completion leads to AWAIT, its failure to DONE (R173, R197, R198). -/
def ArmedAtWriteEnd (s t : State) : Prop :=
  s.fsm = .xmit ∧ (t.fsm = .await ∨ t.fsm = .done) ∧ t.spaceCnt = nSpace

/-- The transmission arms the spacing at its last byte and at a failure, and at no byte before (R136, R197, R198). -/
theorem sendByte_spacing {id : Byte} {f : Message} {s t : State} (hf : s.fsm = .xmit)
    (h : sendByte id f s = .next t) : ArmedAtWriteEnd s t ∨ KeepsSpacing s t := by
  rcases sendByte_cases h with ⟨-, rfl⟩ | ⟨-, -, -, rfl⟩ | ⟨-, -, -, rfl⟩ | ⟨-, -, -, rfl⟩ | ⟨-, -, rfl⟩
  · exact Or.inl ⟨hf, by simp, by simp⟩
  · exact Or.inr ⟨by simp, by simp⟩
  · exact Or.inr ⟨by simp, by simp⟩
  · exact Or.inl ⟨hf, by simp, by simp⟩
  · exact Or.inr (.refl _)

/-- Every answer leads from AWAIT to BACKOFF or DONE and arms nothing (R173, R200 to R214). -/
theorem dispatchResponse_spacing {s t : State} (hf : s.fsm = .await)
    (h : dispatchResponse s = .next t) : KeepsSpacing s t := by
  rcases dispatchResponse_cases hf with ⟨-, -, he⟩ | ⟨-, -, he⟩ | ⟨-, -, he⟩ | ⟨-, -, he⟩ <;>
    rw [he] at h <;> cases h
  · simp [KeepsSpacing, hf]
  · rcases answerNack_cases (nackCode s.rx.message.payload) s with ⟨-, hn⟩ | ⟨-, hn⟩ <;>
      simp [hn, KeepsSpacing, hf]
  · rcases answerReport_cases s.rx.message.payload s with ⟨-, hp⟩ | ⟨_, hp⟩ <;>
      simp [hp, KeepsSpacing, hf]
  · simp [KeepsSpacing, hf]

/-- Nothing that happens in AWAIT arms the spacing: no read failure, no decode error, no answer (R173). -/
theorem awaitEvent_spacing {s t : State} (hf : s.fsm = .await) (h : awaitEvent s = .next t) :
    KeepsSpacing s t := by
  rcases awaitEvent_cases h with ⟨-, rfl⟩ | ⟨-, -, hm⟩ | ⟨-, -, he⟩ | ⟨-, -, u, hu, hd⟩ | ⟨-, -, rfl⟩
  · simp [KeepsSpacing, hf]
  · rw [receiveByte_more_frame hm]
    exact .refl s
  · rcases receiveByte_ended he with ⟨-, rfl⟩ | ⟨-, rfl⟩ <;> simp [KeepsSpacing, hf]
  · obtain ⟨-, rfl, -⟩ := receiveByte_frameIn hu
    have hbyte : KeepsSpacing s (checksumLow s.input.rxData s) := by simp [KeepsSpacing]
    exact hbyte.trans (dispatchResponse_spacing (by simpa using hf) hd)
  · exact .refl _

/-- Building a frame leads to SPACE or DONE and arms nothing (R110, R193, R210). -/
theorem issueMessage_spacing (id : Byte) (f : Message) {s : State} (hf : s.fsm = .idle) :
    KeepsSpacing s (issueMessage id f s) := by
  rcases Nat.lt_or_ge maxPayload f.payload.length with hl | hl
  · simp [issueMessage_of_gt id f s hl, KeepsSpacing, hf]
  · simp [issueMessage_of_le id f s hl, KeepsSpacing, hf]

/-- No command arms the spacing, a ValidationError neither (R173, R192). -/
theorem acceptance_spacing {s t : State} (hf : s.fsm = .idle)
    (h : exec (decodeHostCmd s.input.cmdOp s.input.cmdPos) s = .next t) : KeepsSpacing s t := by
  rcases acceptance_cases hf h with ⟨-, -, rfl⟩ | ⟨-, -, rfl⟩ | ⟨-, rfl⟩
  · simp [KeepsSpacing, hf]
  · have hop : KeepsSpacing s (acceptCommand 0 s) := by simp [KeepsSpacing]
    exact hop.trans (issueMessage_spacing _ _ (by simpa using hf))
  · have hop : KeepsSpacing s (acceptCommand 1 s) := by simp [KeepsSpacing]
    exact hop.trans (issueMessage_spacing _ _ (by simpa using hf))

/-- The event of a port arms the spacing at the end of a write and never otherwise (R173). -/
theorem portEvent_spacing {s t : State} (h : portEvent s = .next t) :
    ArmedAtWriteEnd s t ∨ KeepsSpacing s t := by
  cases hf : s.fsm <;> simp only [portEvent, hf] at h
  case idle =>
    split at h
    · exact Or.inr (acceptance_spacing hf h)
    · cases h
      exact Or.inr (.refl s)
  case xmit =>
    rw [transmitEvent_eq hf] at h
    exact sendByte_spacing hf h
  case await => exact Or.inr (awaitEvent_spacing hf h)
  case done =>
    split at h <;> cases h
    · simp [KeepsSpacing, hf]
    · exact Or.inr (.refl s)
  all_goals
    cases h
    exact Or.inr (.refl s)

/-! ### What a step does to the spacing (R170, R173, R174) -/

/-- A timer transition takes no Tick (R196, R204). -/
theorem stepTicks_timer {s : State} (hd : timerDone s = true) : stepTicks s = 0 := by
  simp [stepTicks, hd]

/-- A moment without reset has the Tick of its clock period (R170). -/
theorem stepTicks_event {s : State} (hd : timerDone s = false) (hr : s.input.rst = false) :
    stepTicks s = s.input.tick.toNat := by
  cases ht : s.input.tick <;> simp [stepTicks, hd, hr, ht]

/-- A step that arms nothing: SPACE_CNT falls by the Tick of the step, a write that runs goes on, and one begins only from SPACE with SPACE_CNT 0 (R170, R174). -/
def OnlyTicksSpacing (s t : State) : Prop :=
  t.spaceCnt = s.spaceCnt - stepTicks s ∧ (s.fsm = .xmit → t.fsm = .xmit) ∧
    (t.fsm = .xmit → s.fsm = .xmit ∨ s.fsm = .space ∧ s.spaceCnt = 0)

/-- Everything a step can do to SPACE_CNT and to XMIT: the reset edge and the end of a write arm the spacing, every other step only counts (R173). -/
theorem step_spacing {s t : State} (h : step s = .next t) :
    (isResetStep s = true ∧ t.fsm = .idle ∧ t.spaceCnt = nSpace) ∨
    (isResetStep s = false ∧ ArmedAtWriteEnd s t) ∨
    (isResetStep s = false ∧ OnlyTicksSpacing s t) := by
  rcases step_cases h with ⟨hf, hc, hd, rfl⟩ | ⟨hf, -, hd, _, rfl⟩ | ⟨hd, hr, rfl⟩ | ⟨hd, hr, u, hu, rfl⟩
  · exact Or.inr (Or.inr ⟨by simp [isResetStep, hd], by simp [OnlyTicksSpacing, stepTicks_timer hd, hf, hc]⟩)
  · exact Or.inr (Or.inr ⟨by simp [isResetStep, hd], by simp [OnlyTicksSpacing, stepTicks_timer hd, hf]⟩)
  · exact Or.inl ⟨(isResetStep_iff s).mpr ⟨hd, hr⟩, fsm_after_reset _ s, by simp [State.reset]⟩
  · right
    have hnot : isResetStep s = false := by simp [isResetStep, hr]
    rcases portEvent_spacing hu with harm | ⟨hcnt, hxmit⟩
    · exact Or.inl ⟨hnot, by simpa [ArmedAtWriteEnd] using harm⟩
    · rw [tickIf_spaceCnt, ← stepTicks_event hd hr] at hcnt
      simp only [tickIf_fields] at hxmit
      exact Or.inr ⟨hnot, by simpa using hcnt, by simpa using hxmit.mpr,
        fun ht => Or.inl (hxmit.mp (by simpa using ht))⟩

/-- Settles O36: `step_spacing`, whose three cases are told apart by the reset edge and by leaving XMIT for AWAIT or DONE. -/
theorem spacingArmedAtThreeMoments : Obligations.SpacingArmedAtThreeMoments := by
  intro s t h
  rcases step_spacing h with ⟨hr, -, hc⟩ | ⟨hr, hf, ht, hc⟩ | ⟨hr, hc, hstay, -⟩
  · simp [hr, hc]
  · exact ⟨fun _ => hc, fun _ _ _ => hc, fun _ hn => absurd ⟨hf, ht⟩ hn⟩
  · refine ⟨fun h' => ?_, fun _ hf ht => ?_, fun _ _ => hc⟩
    · simp [hr] at h'
    · simp [hstay hf] at ht

/-! ### The spacing along a run (R176) -/

/-- `n` Ticks after the spacing was armed: the Ticks and SPACE_CNT together make up N_SPACE, and a write that runs has waited for all of them. -/
def SpacedBy (n : Nat) (s : State) : Prop :=
  nSpace ≤ n + s.spaceCnt ∧ (s.fsm = .xmit → nSpace ≤ n)

/-- With SPACE_CNT at N_SPACE and no write running the spacing begins. -/
theorem spacedBy_of_armed (n : Nat) {s : State} (hf : s.fsm ≠ .xmit) (hc : s.spaceCnt = nSpace) :
    SpacedBy n s := ⟨by omega, fun h => absurd h hf⟩

/-- Every step keeps the spacing: what SPACE_CNT loses is counted as Ticks, and a write begins only when it has lost all. -/
theorem SpacedBy.step {n : Nat} {s t : State} (h : SpacedBy n s) (hs : step s = .next t) :
    SpacedBy (n + stepTicks s) t := by
  obtain ⟨hsum, hwrite⟩ := h
  rcases step_spacing hs with ⟨-, ht, hc⟩ | ⟨-, -, ht, hc⟩ | ⟨-, hc, -, hstart⟩
  · exact spacedBy_of_armed _ (by simp [ht]) hc
  · exact spacedBy_of_armed _ (by rcases ht with ht | ht <;> simp [ht]) hc
  · refine ⟨by omega, fun ht => ?_⟩
    rcases hstart ht with hf | ⟨-, hzero⟩
    · exact Nat.le_add_right_of_le (hwrite hf)
    · omega

/-- The Ticks of a run are those of its first step and of the rest. -/
theorem ticksIn_succ_of_step {k : Nat} {s t : State} (h : step s = .next t) :
    ticksIn (k + 1) s = stepTicks s + ticksIn k t := by
  simp [ticksIn, h]

/-- Every run keeps the spacing. -/
theorem SpacedBy.run {n k : Nat} {s t : State} (h : SpacedBy n s) (hrun : runFor k s = .next t) :
    SpacedBy (n + ticksIn k s) t := by
  induction k generalizing n s with
  | zero =>
    cases hrun
    exact h
  | succ k ih =>
    obtain ⟨u, hu, hrest⟩ := runFor_succ_next hrun
    rw [ticksIn_succ_of_step hu, ← Nat.add_assoc]
    exact ih (h.step hu) hrest

/-- A run from an armed state into XMIT takes at least N_SPACE Ticks (R176). -/
theorem nSpace_le_ticksIn {k : Nat} {s t : State} (hf : s.fsm ≠ .xmit) (hc : s.spaceCnt = nSpace)
    (hrun : runFor k s = .next t) (ht : t.fsm = .xmit) : nSpace ≤ ticksIn k s := by
  obtain ⟨-, hwrite⟩ := (spacedBy_of_armed 0 hf hc).run hrun
  simpa using hwrite ht

/-- A step that ends a write, and a reset edge, leave the spacing armed and no write running (R173, R197, R198). -/
theorem armed_of_write_end_or_reset {r s : State} (h : step r = .next s)
    (hend : (r.fsm = .xmit ∧ s.fsm ≠ .xmit) ∨ isResetStep r = true) :
    s.fsm ≠ .xmit ∧ s.spaceCnt = nSpace := by
  rcases step_spacing h with ⟨-, hs, hc⟩ | ⟨-, -, hs, hc⟩ | ⟨hr, -, hstay, -⟩
  · exact ⟨by simp [hs], hc⟩
  · exact ⟨by rcases hs with hs | hs <;> simp [hs], hc⟩
  · rcases hend with ⟨hf, hs⟩ | hr'
    · exact absurd (hstay hf) hs
    · simp [hr] at hr'

/-- N_SPACE clock periods are at least 100 ms (R9). -/
theorem clkHz_le_nSpace : clkHz ≤ 10 * nSpace := by
  unfold nSpace
  omega

/-- Settles O37: the three starting points leave the spacing armed (`armed_of_write_end_or_reset`, R44), and the invariant `SpacedBy` carries it to the next write (`nSpace_le_ticksIn`). -/
theorem writesAreSpaced : Obligations.WritesAreSpaced := by
  refine ⟨clkHz_le_nSpace, fun r s t k h hend hrun ht => ?_, fun env t k hrun ht => ?_⟩
  · obtain ⟨hf, hc⟩ := armed_of_write_end_or_reset h hend
    exact nSpace_le_ticksIn hf hc hrun ht
  · exact nSpace_le_ticksIn (by simp [State.reset]) rfl hrun ht

end Sys2Proof.Machine

/-! PROOFS. The engine of 42_engine.md as a transition table (R220), and its timers (R196, R203, R204). -/

namespace Sys2Proof.Machine

/-! ### What the operations do, written out -/

/-- A header or payload byte joins TX_SUM (R136). -/
theorem byteTaken_body {f : Message} (w : Byte) {s : State} (hi : s.txIdx.val < hdrLen + f.payload.length) :
    byteTaken f w s = { s with
      txOut := s.txOut ++ [w], txSum := s.txSum + w.setWidth 16, txIdx := s.txIdx + 1 } := by
  rw [byteTaken, if_pos hi]

/-- A checksum byte does not join TX_SUM (R136). -/
theorem byteTaken_checksum {f : Message} (w : Byte) {s : State}
    (hi : hdrLen + f.payload.length ≤ s.txIdx.val) :
    byteTaken f w s = { s with txOut := s.txOut ++ [w], txIdx := s.txIdx + 1 } := by
  rw [byteTaken, if_neg (Nat.not_lt.mpr hi)]

theorem moveMessage_payload_le (dst : Addr) (t : Word16) :
    (moveMessage dst t).payload.length ≤ maxPayload := by
  simp [moveMessage_eq, maxPayload]

theorem queryMessage_payload_le (dst : Addr) : (queryMessage dst).payload.length ≤ maxPayload := by
  simp [queryMessage_eq]

/-- The MOVE the core builds is in the transmit registers after they are loaded (R193). -/
theorem message_load_move (r : TxFrame) (id : Byte) (dst : Addr) (t : Word16) :
    (r.load id (moveMessage dst t) (moveMessage_payload_le dst t)).message = moveMessage dst t :=
  message_load_operands r id true nodeTypeTx ctrlAddr dst _ (moveMessage_payload_le dst t)

/-- The QUERY the core builds is in the transmit registers after they are loaded (R210). -/
theorem message_load_query (r : TxFrame) (id : Byte) (dst : Addr) :
    (r.load id (queryMessage dst) (queryMessage_payload_le dst)).message = queryMessage dst :=
  message_load_operands r id false nodeTypeTx ctrlAddr dst _ (queryMessage_payload_le dst)

theorem isMove_moveMessage (dst : Addr) (t : Word16) : (moveMessage dst t).isMove dst t = true :=
  decide_eq_true (moveMessage_eq dst t)

theorem isQuery_queryMessage (dst : Addr) : (queryMessage dst).isQuery dst = true :=
  decide_eq_true (queryMessage_eq dst)

/-! ### The transition table (R220): each event is one of its rows -/

/-- The code of a NACK in the receive registers (R105, R202). -/
theorem nackCode_rxMessage (r : RxFrame) :
    nackCode r.message.payload = if r.pcount.val = 0 then (0xFF : Byte) else r.payload[0] := by
  rw [nackCode, List.headD_eq_head?_getD, List.head?_eq_getElem?]
  split <;> rename_i hp
  · simp [RxFrame.message, hp, nackSentinel]
  · simp [RxFrame.message, Nat.pos_of_ne_zero hp]

/-- A NACK is answered by the two rows for it, by what is left of the attempts (R202). -/
theorem answerNack_row {s : State} (hc : s.cmdOp = 0) (hid : s.rx.msgid = idNack) :
    DispatchRow s (answerNack (nackCode s.rx.message.payload) s) := by
  rcases answerNack_cases (nackCode s.rx.message.payload) s with ⟨ha, he⟩ | ⟨ha, he⟩ <;>
    rw [he, nackCode_rxMessage]
  · exact .nackLast s hc hid (by rw [ha]; rfl)
  · exact .nackRetry s hc hid (by omega)

/-- A position report is answered by the two rows for it, by its length (R213, R214). -/
theorem answerReport_row {s : State} (hc : s.cmdOp = 1) (hid : s.rx.msgid = idPosreport) :
    DispatchRow s (answerReport s.rx.message.payload s) := by
  rcases answerReport_cases s.rx.message.payload s with ⟨hl, he⟩ | ⟨hl, he⟩ <;> rw [he] <;>
    rw [rxMessage_payload_length] at hl
  · exact .shortReport s hc hid hl
  · have hthird : s.rx.message.payload[2] = s.rx.payload[2] := by simp [RxFrame.message]
    rw [hthird]
    exact .report s hc hid hl

/-- Every response dispatch is one of the rows for a good frame (R200 to R214). -/
theorem dispatchResponse_row {s t : State} (hf : s.fsm = .await)
    (h : dispatchResponse s = .next t) : DispatchRow s t := by
  rcases dispatchResponse_cases hf with ⟨hc, hid, he⟩ | ⟨hc, hid, he⟩ | ⟨hc, hid, he⟩ | ⟨h0, h1, he⟩ <;>
    rw [he] at h <;> cases h
  · exact .ack s hc hid
  · exact answerNack_row hc hid
  · exact answerReport_row hc hid
  · rcases BitVec.eq_zero_or_eq_one s.cmdOp with hc | hc
    · exact .setOther s hc (h0 hc).1 (h0 hc).2
    · exact .getOther s hc (h1 hc)

/-- Handing a frame over is one of the rows for XMIT, or no event (R136, R197, R198). -/
theorem sendByte_transition {s t : State} (hf : s.fsm = .xmit)
    (h : sendByte s.tx.msgid s.tx.message s = .next t) : Transition s t := by
  rcases sendByte_cases h with ⟨he, rfl⟩ | ⟨he, hr, hi, rfl⟩ | ⟨he, hr, hi, rfl⟩ | ⟨he, hr, hi, rfl⟩ |
    ⟨he, hr, rfl⟩
  · exact .writeFailure s hf he
  · rw [byteTaken_body _ (by simpa using hi)]
    exact .bodyByteTaken s hf he hr hi
  · rw [byteTaken_checksum _ (by omega)]
    exact .checksumByteTaken s hf he hr (by simpa [hdrLen_eq] using hi)
  · rw [byteTaken_checksum _ (by omega)]
    exact .writeComplete s _ hf he hr (by simpa [hdrLen_eq] using hi)
  · exact .stays t (by simp [noEvent, hf, he, hr])

/-- The ninth byte ends the call only with LEN below 11 (R142). -/
theorem lenField_of_ended {b : Byte} {s u : State} (h : receiveByte b s = .ended u)
    (hi : s.rxIdx.val = 8) : lenField s.rx.comb < overhead := by
  by_contra hlen
  rw [receiveByte_ninth b hi (Nat.not_lt.mp hlen)] at h
  cases h

/-- The last byte ends the call only with checksums that differ (R145). -/
theorem rxCk_ne_of_ended {b : Byte} {s u : State} (h : receiveByte b s = .ended u)
    (hi : s.rxIdx.val = hdrLen + 1 + s.rx.pcount.val) :
    (checksumLow b s).rxCk ≠ (checksumLow b s).rxSum := by
  intro heq
  rw [receiveByte_checksumLow b hi, compareChecksum, if_pos heq] at h
  cases h

/-- The ninth byte goes to the last address register (R141). -/
theorem headerByte_ninth (b : Byte) {s : State} (hi : s.rxIdx.val = 8) :
    headerByte b s = { s with
      rx := { s.rx with dst := { s.rx.dst with b2 := inv b } }
      rxSum := s.rxSum + b.setWidth 16, rxIdx := s.rxIdx + 1 } := by
  simp only [headerByte, hi]
  rfl

/-- A byte that ends the call is one of the two rows for a bad frame (R142, R145). -/
theorem receiveByte_ended_transition {s t : State} (hf : s.fsm = .await) (he : s.input.rxErr = false)
    (hr : s.input.rxValid = true) (h : receiveByte s.input.rxData s = .ended t) : Transition s t := by
  rcases receiveByte_ended h with ⟨hi, rfl⟩ | ⟨hi, rfl⟩
  · rw [headerByte_ninth _ hi]
    exact .badLength s hf he hr hi (lenField_of_ended h hi)
  · have hne := rxCk_ne_of_ended h hi
    rw [hdrLen_eq] at hi
    exact .badChecksum s _ hf he hr hi (by omega) rfl hne

/-- Everything that happens in AWAIT is one of its rows, or no event (R141 to R146, R199 to R214). -/
theorem awaitEvent_transition {s t : State} (hf : s.fsm = .await) (h : awaitEvent s = .next t) :
    Transition s t := by
  rcases awaitEvent_cases h with ⟨he, rfl⟩ | ⟨he, hr, hm⟩ | ⟨he, hr, hm⟩ | ⟨he, hr, u, hu, hd⟩ | ⟨he, hr, rfl⟩
  · exact .readFailure s hf he
  · exact .byteRead s t hf he hr hm
  · exact receiveByte_ended_transition hf he hr hm
  · obtain ⟨hi, rfl, hck⟩ := receiveByte_frameIn hu
    rw [hdrLen_eq] at hi
    exact .frameGood s _ t hf he hr hi (by omega) rfl hck (dispatchResponse_row (by simpa using hf) hd)
  · exact .stays t (by simp [noEvent, hf, he, hr])

/-- The acceptance of a command is one of the rows for IDLE (R192, R193, R210). -/
theorem acceptance_transition {s t : State} (hf : s.fsm = .idle) (hv : s.input.cmdValid = true)
    (h : exec (decodeHostCmd s.input.cmdOp s.input.cmdPos) s = .next t) : Transition s t := by
  rcases acceptance_cases hf h with ⟨ho, hp, rfl⟩ | ⟨ho, hp, rfl⟩ | ⟨ho, rfl⟩
  · exact .setInvalid s hf hv ho hp
  · rw [issueMessage_of_le _ _ _ (moveMessage_payload_le _ _)]
    exact .setValid s _ hf hv ho hp rfl (by rw [message_load_move]; exact isMove_moveMessage _ _)
  · rw [issueMessage_of_le _ _ _ (queryMessage_payload_le _)]
    exact .getAccepted s _ hf hv ho rfl (by rw [message_load_query]; exact isQuery_queryMessage _)

/-- Every event of a port is one of the rows an input causes, or no event (R220). -/
theorem portEvent_transition {s t : State} (h : portEvent s = .next t) : Transition s t := by
  cases hf : s.fsm <;> simp only [portEvent, hf] at h
  case idle =>
    split at h <;> rename_i hv
    · exact acceptance_transition hf hv h
    · cases h
      exact .stays s (by simpa [noEvent, hf] using hv)
  case xmit =>
    rw [transmitEvent_eq hf] at h
    exact sendByte_transition hf h
  case await => exact awaitEvent_transition hf h
  case done =>
    split at h <;> rename_i hr <;> cases h
    · exact .resultTaken s hf hr
    · exact .stays s (by simpa [noEvent, hf] using hr)
  all_goals
    cases h
    exact .stays s (by simp [noEvent, hf])

theorem DispatchRow.env {s t : State} (h : DispatchRow s t) : t.env = s.env := by
  cases h <;> rfl

/-- No row of the table touches the inputs to come. -/
theorem Transition.env {s t : State} (h : Transition s t) : t.env = s.env := by
  cases h
  case byteRead hu => rw [receiveByte_more_frame hu]
  case frameGood u _ _ _ _ _ hu _ hd => rw [hd.env, hu]
  case badChecksum u _ _ _ _ _ hu _ => rw [hu]
  all_goals rfl

/-- Settles O45: `step_cases` tells the four kinds of step apart, and the event of a port is a row of the table (`portEvent_transition`). -/
theorem everyStepIsATableRow : Obligations.EveryStepIsATableRow := by
  intro s t h
  rcases step_cases h with ⟨hf, hc, hd, rfl⟩ | ⟨hf, hc, hd, ha, rfl⟩ | ⟨hd, hr, rfl⟩ | ⟨hd, hr, u, hu, rfl⟩
  · exact Or.inl ⟨hd, hf, hc, rfl⟩
  · exact Or.inr (Or.inl ⟨hd, hf, hc, _, rfl, rfl⟩)
  · exact Or.inr (Or.inr (Or.inl ⟨(isResetStep_iff s).mpr ⟨hd, hr⟩, rfl⟩))
  · have hrow := portEvent_transition hu
    have henv : u.env = s.env := by simpa using hrow.env
    exact Or.inr (Or.inr (Or.inr ⟨by simp [isResetStep, hr], hd, u, hrow, by rw [dropInput, henv]⟩))

/-! ### The timers of the engine (R196, R203, R204) -/

/-- A due transition that does not lag happens (R306). -/
theorem timerDone_of_space {s : State} (hf : s.fsm = .space) (hc : s.spaceCnt = 0)
    (hl : s.input.lag = false) : timerDone s = true :=
  (timerDone_iff s).mpr ⟨Or.inl ⟨hf, hc⟩, hl⟩

theorem timerDone_of_backoff {s : State} (hf : s.fsm = .backoff) (hc : s.backoffCnt = 0)
    (hl : s.input.lag = false) : timerDone s = true :=
  (timerDone_iff s).mpr ⟨Or.inr ⟨hf, hc⟩, hl⟩

/-- A moment in a state that waits for a timer is its Tick alone (R170, R220). -/
theorem step_of_waiting {s : State} (hf : s.fsm = .space ∨ s.fsm = .backoff)
    (hd : timerDone s = false) (hr : s.input.rst = false) :
    step s = .next (dropInput (tickIf s.input.tick s)) := by
  rw [step_event hd hr]
  rcases hf with hf | hf <;> simp [portEvent, hf]

/-- A Tick moves SPACE_CNT alone unless a backoff is being counted (R170). -/
theorem tickIf_of_no_backoff (b : Bool) {s : State} (h : s.fsm = .backoff → s.backoffCnt = 0) :
    tickIf b s = { s with spaceCnt := if b then s.spaceCnt - 1 else s.spaceCnt } := by
  have hkept : (tick s).backoffCnt = s.backoffCnt := by
    rw [tick_backoffCnt]
    split
    · rw [h ‹_›]
    · rfl
  cases b
  · rfl
  · have htick : tick s = { s with spaceCnt := s.spaceCnt - 1, backoffCnt := (tick s).backoffCnt } := rfl
    rw [hkept] at htick
    exact htick

/-- Settles O33: `step_timer` and `step_of_waiting` for the two clauses of the start; `step_spacing` says that no other step enters XMIT. -/
theorem transmissionStartsOnlyFromSpace : Obligations.TransmissionStartsOnlyFromSpace := by
  refine ⟨fun s hf hc => ⟨fun hl => ?_, fun hl hr => ?_⟩, fun s t h hs ht => ?_⟩
  · rw [step_timer (timerDone_of_space hf hc hl), timerEvent, hf]
    rfl
  · rw [step_of_waiting (Or.inl hf) (timerDone_lag hl) hr, tickIf_of_no_backoff _ (by simp [hf])]
    have hzero : (if s.input.tick then s.spaceCnt - 1 else s.spaceCnt) = s.spaceCnt := by simp [hc]
    rw [hzero]
    rfl
  · rcases step_spacing h with ⟨-, hidle, -⟩ | ⟨-, hf, -⟩ | ⟨-, -, -, hstart⟩
    · simp [hidle] at ht
    · exact absurd hf hs
    · exact (hstart ht).resolve_left hs

/-- Settles O34: `step_timer` with `endBackoff`, and `step_of_waiting` for a moment that passes first. -/
theorem backoffEnds : Obligations.BackoffEnds := by
  intro s a hf hc ha
  refine ⟨fun hl => ?_, fun hl hr => ?_⟩
  · have hlt : s.attempt.val + 1 < 3 := ha ▸ a.isLt
    have hval : a = ⟨s.attempt.val + 1, hlt⟩ := Fin.ext ha
    rw [step_timer (timerDone_of_backoff hf hc hl), timerEvent, hf, hval]
    exact dif_pos hlt
  · rw [step_of_waiting (Or.inr hf) (timerDone_lag hl) hr, tickIf_of_no_backoff _ fun _ => hc]
    rfl

/-! ### The backoff (R203) -/

/-- A row of the table that leads into BACKOFF is the NACK that is retried, and starts the count (R202). -/
theorem Transition.backoffCnt_of_entry {s t : State} (h : Transition s t) (hs : s.fsm ≠ .backoff)
    (ht : t.fsm = .backoff) : t.backoffCnt = nBackoff := by
  cases h
  case byteRead hf _ _ hu =>
    rw [receiveByte_more_frame hu] at ht
    exact absurd ht hs
  case frameGood hd =>
    cases hd
    case nackRetry => rfl
    all_goals cases ht
  case stays => exact absurd ht hs
  case bodyByteTaken => exact absurd ht hs
  case checksumByteTaken => exact absurd ht hs
  all_goals cases ht

/-- The step that enters BACKOFF loads BACKOFF_CNT (R202). -/
theorem backoffCnt_of_entry {r s : State} (h : step r = .next s) (hr : r.fsm ≠ .backoff)
    (hs : s.fsm = .backoff) : s.backoffCnt = nBackoff := by
  rcases step_cases h with ⟨-, -, -, rfl⟩ | ⟨-, -, -, _, rfl⟩ | ⟨-, -, rfl⟩ | ⟨-, -, u, hu, rfl⟩
  · cases hs
  · cases hs
  · cases hs
  · exact (portEvent_transition hu).backoffCnt_of_entry (by simpa using hr) hs

/-- The transmit stream and what DECODE holds are as they were (R203). -/
def StreamsKept (s t : State) : Prop := t.txOut = s.txOut ∧ t.rx = s.rx ∧ t.rxIdx = s.rxIdx

theorem StreamsKept.refl (s : State) : StreamsKept s s := ⟨rfl, rfl, rfl⟩

theorem StreamsKept.trans {s t u : State} (h : StreamsKept s t) (h' : StreamsKept t u) :
    StreamsKept s u :=
  ⟨h'.1.trans h.1, h'.2.1.trans h.2.1, h'.2.2.trans h.2.2⟩

/-- A step in BACKOFF ends it with BACKOFF_CNT 0, is a reset, or counts its Tick and stays (R170, R203, R204). -/
theorem step_in_backoff {s t : State} (hf : s.fsm = .backoff) (h : step s = .next t) :
    (t.fsm = .space ∧ s.backoffCnt = 0 ∧ StreamsKept s t) ∨ t.fsm = .idle ∨
    (t.fsm = .backoff ∧ t.backoffCnt = s.backoffCnt - stepTicks s ∧ StreamsKept s t) := by
  rcases step_cases h with ⟨hf', -⟩ | ⟨-, hc, -, _, rfl⟩ | ⟨-, -, rfl⟩ | ⟨hd, hr, -⟩
  · rw [hf] at hf'
    cases hf'
  · exact Or.inl ⟨rfl, hc, .refl s⟩
  · exact Or.inr (Or.inl (fsm_after_reset _ s))
  · rw [step_of_waiting (Or.inr hf) hd hr] at h
    cases h
    exact Or.inr (Or.inr ⟨by simp [hf], by simp [tickIf_backoffCnt, hf, stepTicks_event hd hr], by
      simp [StreamsKept]⟩)

/-- A run of which every step starts in BACKOFF takes the Ticks BACKOFF_CNT says to reach SPACE, and keeps the streams until then (R203). -/
theorem run_in_backoff {k : Nat} {s t : State} (hf : s.fsm = .backoff)
    (hall : allAlong (fun u => decide (u.fsm = .backoff)) k s = true) (hrun : runFor k s = .next t) :
    (t.fsm = .space → s.backoffCnt ≤ ticksIn k s) ∧
    (t.fsm = .space ∨ t.fsm = .backoff → StreamsKept s t) := by
  induction k generalizing s with
  | zero =>
    cases hrun
    exact ⟨fun ht => by simp [hf] at ht, fun _ => .refl _⟩
  | succ k ih =>
    obtain ⟨u, hu, hrest⟩ := runFor_succ_next hrun
    simp only [allAlong, hu, Bool.and_eq_true] at hall
    have hlast : u.fsm ≠ .backoff → u = t := fun hn => by
      cases k with
      | zero => simpa using hrest
      | succ k => simp [allAlong, hn] at hall
    rw [ticksIn_succ_of_step hu]
    rcases step_in_backoff hf hu with ⟨hspace, hc, hkept⟩ | hidle | ⟨hstay, hc, hkept⟩
    · obtain rfl := hlast (by simp [hspace])
      exact ⟨fun _ => by omega, fun _ => hkept⟩
    · obtain rfl := hlast (by simp [hidle])
      simp [hidle]
    · obtain ⟨hticks, hstreams⟩ := ih hstay hall.2 hrest
      exact ⟨fun ht => by have := hticks ht; omega, fun ht => hkept.trans (hstreams ht)⟩

/-- Settles O38: the step into BACKOFF loads N_BACKOFF (`backoffCnt_of_entry`), and a run within the backoff counts it down to the end (`run_in_backoff`). -/
theorem backoffLasts : Obligations.BackoffLasts := by
  refine ⟨Nat.le_refl _, fun r s t k h hr hs hall hrun => ?_⟩
  rw [← backoffCnt_of_entry h hr hs]
  exact run_in_backoff hs hall hrun

end Sys2Proof.Machine

/-! PROOFS. The calls of 42_engine.md: acceptance, transmission, the answers of the device, the result (R190 to R224). -/

namespace Sys2Proof.Machine

/-! ### The two position scales (R190, R191) -/

/-- Taking a byte's worth from 100 stays within 16 bits of two's complement. -/
theorem toInt_hundred_sub {i : Int} (h0 : 0 ≤ i) (h1 : i ≤ 255) :
    (BitVec.ofInt 16 (100 - i)).toInt = 100 - i :=
  BitVec.toInt_ofInt_eq_self (by decide) (by omega) (by omega)

/-- The device target of a legal position (R190). -/
theorem deviceTarget_toInt {p : Word16} (h0 : 0 ≤ p.toInt) (h1 : p.toInt ≤ 100) :
    (deviceTarget p).toInt = 100 - p.toInt :=
  toInt_hundred_sub h0 (by omega)

/-- Settles O11: `deviceTarget_toInt`, once for the range and twice for the way back. -/
theorem positionMapping : Obligations.PositionMapping := by
  intro p h0 h1
  have hd := deviceTarget_toInt h0 h1
  refine ⟨hd, by omega, by omega, BitVec.eq_of_toInt_eq ?_⟩
  rw [deviceTarget_toInt (by omega) (by omega), hd]
  omega

/-- Settles O12: a byte is at most 255, so `toInt_hundred_sub` applies to every one. -/
theorem positionResult : Obligations.PositionResult := by
  intro b
  have hb := b.isLt
  have hr : (callerPosition b).toInt = 100 - (b.toNat : Int) := toInt_hundred_sub (by omega) (by omega)
  exact ⟨hr, by omega, by omega⟩

/-! ### Acceptance (R192, R193, R210) -/

theorem positionLegal_iff (p : Word16) : positionLegal p = true ↔ 0 ≤ p.toInt ∧ p.toInt ≤ 100 := by
  simp [positionLegal]

/-- A position outside 0 to 100 is refused at acceptance (R192). -/
theorem exec_setPosition_illegal {s : State} {pos : Word16} (hf : s.fsm = .idle)
    (hp : pos.toInt < 0 ∨ 100 < pos.toInt) :
    exec (.setPosition pos) s = .next (raise .validation (acceptCommand 0 s)) := by
  have hillegal : ¬positionLegal pos = true := by
    rw [positionLegal_iff]
    omega
  rw [exec, execSetPosition, if_pos hf, if_neg hillegal]

/-- The transmit registers after SET_POSITION is accepted: the MOVE to the device target (R193). -/
def TxFrame.loadMove (t : TxFrame) (dst : Addr) (pos : Word16) : TxFrame :=
  t.load idMove (moveMessage dst (deviceTarget pos)) (moveMessage_payload_le _ _)

/-- The transmit registers after GET_POSITION is accepted: the QUERY (R210). -/
def TxFrame.loadQuery (t : TxFrame) (dst : Addr) : TxFrame :=
  t.load idQuery (queryMessage dst) (queryMessage_payload_le _)

/-- A position in 0 to 100 is accepted for SPACE, with its frame built (R192, R193). -/
theorem exec_setPosition_legal {s : State} {pos : Word16} (hf : s.fsm = .idle)
    (h0 : 0 ≤ pos.toInt) (h1 : pos.toInt ≤ 100) :
    exec (.setPosition pos) s = .next { s with
      cmdOp := 0, attempt := 0, res := Results.zero
      tx := s.tx.loadMove s.motorAddr pos, fsm := .space } := by
  rw [exec, execSetPosition, if_pos hf, if_pos ((positionLegal_iff pos).mpr ⟨h0, h1⟩),
    issueMessage_of_le _ _ _ (moveMessage_payload_le _ _)]
  rfl

/-- GET_POSITION is accepted for SPACE, with its frame built (R210). -/
theorem exec_getPosition {s : State} (hf : s.fsm = .idle) :
    exec .getPosition s = .next { s with
      cmdOp := 1, attempt := 0, res := Results.zero
      tx := s.tx.loadQuery s.motorAddr, fsm := .space } := by
  rw [exec, execGetPosition, if_pos hf, issueMessage_of_le _ _ _ (queryMessage_payload_le _)]
  rfl

/-- Settles O13: `exec_setPosition_illegal` and `exec_setPosition_legal`. -/
theorem setPositionValidates : Obligations.SetPositionValidates := by
  intro s pos hf
  exact ⟨fun hp => exec_setPosition_illegal hf hp, fun h0 h1 => ⟨_, exec_setPosition_legal hf h0 h1⟩⟩

/-! ### The frames of a call (R193, R210) -/

/-- An overwritten payload buffer, byte by byte. -/
theorem overwrite_getElem (old : Vector Byte 20) (p : List Byte) {k : Nat} (hk : k < 20) :
    (overwrite old p)[k] = if h : k < p.length then p[k] else old[k] := by
  simp [overwrite]

/-- The device target of a legal position is a small number, so its low byte holds all of it (R101, R190). -/
theorem deviceTarget_toNat {p : Word16} (h0 : 0 ≤ p.toInt) (h1 : p.toInt ≤ 100) :
    ((deviceTarget p).toNat : Int) = 100 - p.toInt := by
  have hd := deviceTarget_toInt h0 h1
  have hlt := (deviceTarget p).isLt
  rw [BitVec.toInt_eq_toNat_cond] at hd
  split at hd <;> omega

theorem loByte_deviceTarget {p : Word16} (h0 : 0 ≤ p.toInt) (h1 : p.toInt ≤ 100) :
    ((loByte (deviceTarget p)).toNat : Int) = 100 - p.toInt := by
  have hd := deviceTarget_toNat h0 h1
  rw [loByte_toNat]
  omega

theorem hiByte_deviceTarget {p : Word16} (h0 : 0 ≤ p.toInt) (h1 : p.toInt ≤ 100) :
    hiByte (deviceTarget p) = 0 := by
  have hd := deviceTarget_toNat h0 h1
  apply BitVec.eq_of_toNat_eq
  rw [hiByte_toNat]
  simp
  omega

/-- The transmit registers with the MOVE, one by one (R193). -/
theorem loadMove_eq (t : TxFrame) (dst : Addr) (pos : Word16) :
    t.loadMove dst pos =
      ⟨0x03, true, 4, 0x00, ⟨0x7F, 0x7F, 0x7F⟩, dst, (t.loadMove dst pos).payload⟩ := by
  have hack : ackField 0x8F = true := by decide
  simp only [TxFrame.loadMove, TxFrame.load, moveMessage_eq, hack]
  rfl

/-- The payload registers of the MOVE: four bytes of R101, the others kept. -/
theorem loadMove_payload (t : TxFrame) (dst : Addr) (pos : Word16) {k : Nat} (hk : k < 20) :
    (t.loadMove dst pos).payload[k] =
      if h : k < 4 then
        [functionCode, loByte (deviceTarget pos), hiByte (deviceTarget pos), 0x00][k]
      else t.payload[k] := by
  simp only [TxFrame.loadMove, TxFrame.load, moveMessage_eq, overwrite_getElem _ _ hk]
  rfl

/-- Settles O14: `exec_setPosition_legal`, with the registers by `loadMove_payload` and the frame by `message_load_move`. -/
theorem setPositionBuildsMove : Obligations.SetPositionBuildsMove := by
  intro s pos hf h0 h1
  have hhi := hiByte_deviceTarget h0 h1
  have htarget : (s.tx.loadMove s.motorAddr pos).payload[1] = loByte (deviceTarget pos) := by
    simp [loadMove_payload]
  have hmsg : (s.tx.loadMove s.motorAddr pos).message = moveMessage s.motorAddr (deviceTarget pos) :=
    message_load_move _ _ _ _
  have hregs := loadMove_eq s.tx s.motorAddr pos
  refine ⟨_, exec_setPosition_legal hf h0 h1, rfl, by rw [hregs], rfl, rfl, rfl, rfl, ?_, ?_, ?_, ?_, ?_, ?_, ?_⟩
  · simp [loadMove_payload, functionCode]
  · rw [htarget]
    exact loByte_deviceTarget h0 h1
  · simp [loadMove_payload, hhi]
  · simp [loadMove_payload]
  · intro k hk
    have hnot : ¬k.val < 4 := by omega
    simp [loadMove_payload, hnot]
  · rw [hmsg, htarget, moveMessage_eq, hhi]
    rfl
  · rw [hmsg, wireImage_length, moveMessage_eq]
    rfl

/-- An empty payload writes nothing over. -/
theorem overwrite_nil (old : Vector Byte 20) : overwrite old [] = old := by
  apply Vector.ext
  intro k hk
  simp [overwrite_getElem old [] hk]

/-- The transmit registers with the QUERY, one by one (R210). -/
theorem loadQuery_eq (t : TxFrame) (dst : Addr) :
    t.loadQuery dst = ⟨0x0C, false, 0, 0x00, ⟨0x7F, 0x7F, 0x7F⟩, dst, t.payload⟩ := by
  have hack : ackField 0x0B = false := by decide
  simp only [TxFrame.loadQuery, TxFrame.load, queryMessage_eq, hack, overwrite_nil]
  rfl

/-- Settles O15: `exec_getPosition`, with the registers by `loadQuery_eq` and the frame by `message_load_query`. -/
theorem getPositionBuildsQuery : Obligations.GetPositionBuildsQuery := by
  refine ⟨fun _ => rfl, fun s hf => ?_⟩
  have hmsg : (s.tx.loadQuery s.motorAddr).message = queryMessage s.motorAddr := message_load_query _ _ _
  refine ⟨s.tx.loadQuery s.motorAddr, loadQuery_eq _ _, exec_getPosition hf, ?_, ?_⟩
  · rw [hmsg, queryMessage_eq]
    rfl
  · rw [hmsg, wireImage_length, queryMessage_eq]
    rfl

/-! ### MOVE and QUERY in XMIT (R136, R197, R198) -/

/-- In XMIT both messages of the core are handed over by the same rule (R136). -/
theorem exec_move_xmit {s : State} (f : Message) (hf : s.fsm = .xmit) :
    exec (.move f) s = sendByte idMove f s := by
  simp [exec, execMove, hf]

theorem exec_query_xmit {s : State} (f : Message) (hf : s.fsm = .xmit) :
    exec (.query f) s = sendByte idQuery f s := by
  simp [exec, execQuery, hf]

theorem exec_xmit {s : State} {f : Message} (hf : s.fsm = .xmit) {i : Instr}
    (hi : i ∈ [Instr.move f, Instr.query f]) : ∃ id, exec i s = sendByte id f s := by
  simp only [List.mem_cons, List.not_mem_nil, or_false] at hi
  rcases hi with rfl | rfl
  · exact ⟨idMove, exec_move_xmit f hf⟩
  · exact ⟨idQuery, exec_query_xmit f hf⟩

/-- A reported failure beats a transfer (R41, R198). -/
theorem sendByte_failure (id : Byte) (f : Message) {s : State} (he : s.input.txErr = true) :
    sendByte id f s = .next (raise .transport (spaceArm s)) := if_pos he

/-- A ready transport takes the wire byte at TX_IDX; the last one completes the write (R136, R197). -/
theorem sendByte_taken {id : Byte} {f : Message} {s : State} {w : Byte} (he : s.input.txErr = false)
    (hr : s.input.txReady = true) (hw : wireByte id f s.txSum s.txIdx = some w) :
    sendByte id f s = .next (if s.txIdx.val = hdrLen + 1 + f.payload.length then
      completeWrite (byteTaken f w s) else byteTaken f w s) := by
  rw [sendByte, he, hr, hw]
  exact (apply_ite _ _ _ _).symm

/-- A header or payload byte, complemented (R136). -/
theorem sendByte_body {id : Byte} {f : Message} {s : State} {b : Byte} (he : s.input.txErr = false)
    (hr : s.input.txReady = true) (hb : (logicalBytes id f)[s.txIdx.val]? = some b) :
    sendByte id f s = .next { s with
      txOut := s.txOut ++ [inv b], txSum := s.txSum + (inv b).setWidth 16, txIdx := s.txIdx + 1 } := by
  obtain ⟨hi, rfl⟩ := List.getElem?_eq_some_iff.mp hb
  have hw : wireByte id f s.txSum s.txIdx = some (inv (logicalBytes id f)[s.txIdx.val]) := dif_pos hi
  rw [logicalBytes_length] at hi
  rw [sendByte_taken he hr hw, if_neg (by omega), byteTaken_body _ hi]

/-- The first checksum byte (R136). -/
theorem sendByte_high (id : Byte) {f : Message} {s : State} (he : s.input.txErr = false)
    (hr : s.input.txReady = true) (hi : s.txIdx.val = hdrLen + f.payload.length) :
    sendByte id f s = .next { s with txOut := s.txOut ++ [hiByte s.txSum], txIdx := s.txIdx + 1 } := by
  have hw : wireByte id f s.txSum s.txIdx = some (hiByte s.txSum) := by rw [hi, wireByte_high]
  rw [sendByte_taken he hr hw, if_neg (by omega), byteTaken_checksum _ (by omega)]

/-- The last byte of the frame (R197). -/
theorem sendByte_low (id : Byte) {f : Message} {s : State} (he : s.input.txErr = false)
    (hr : s.input.txReady = true) (hi : s.txIdx.val = hdrLen + 1 + f.payload.length) :
    sendByte id f s = .next (completeWrite
      { s with txOut := s.txOut ++ [loByte s.txSum], txIdx := s.txIdx + 1 }) := by
  have hw : wireByte id f s.txSum s.txIdx = some (loByte s.txSum) := by rw [hi, wireByte_low]
  rw [sendByte_taken he hr hw, if_pos hi, byteTaken_checksum _ (by omega)]

/-- Settles O18: `sendByte_body`, `sendByte_high` and `sendByte_low`, by the index. -/
theorem moveAndQueryHandOverBytes : Obligations.MoveAndQueryHandOverBytes := by
  intro s f hf he hr
  refine ⟨fun b hb => ?_, fun b hb => ?_, fun i hi => ?_⟩
  · rw [exec_move_xmit f hf]
    exact sendByte_body he hr hb
  · rw [exec_query_xmit f hf]
    exact sendByte_body he hr hb
  · obtain ⟨id, hexec⟩ := exec_xmit hf hi
    rw [hexec]
    refine ⟨fun hidx => sendByte_high id he hr hidx, fun hidx => ⟨freeRxFrame s.freeCnt, ?_⟩⟩
    rw [sendByte_low id he hr (by rw [hdrLen_eq]; omega)]
    rfl

/-- Settles O19: `sendByte_failure`, which looks at the failure before it looks at `tx_ready`. -/
theorem writeFailureEndsCall : Obligations.WriteFailureEndsCall := by
  intro s f hf he i hi
  obtain ⟨id, hexec⟩ := exec_xmit hf hi
  rw [hexec, sendByte_failure id f he]
  rfl

/-! ### The answers of the device (R201 to R214) -/

/-- Settles O20: `dispatchResponse_unexpected`, for the IDs of the one command that is running. -/
theorem unexpectedMessageIsProtocolError : Obligations.UnexpectedMessageIsProtocolError := by
  intro s hf h
  have h01 : (0 : BitVec 1) ≠ 1 := by decide
  rcases h with ⟨hc, hack, hnack⟩ | ⟨hc, hreport⟩
  · exact dispatchResponse_unexpected hf (fun _ => ⟨hack, hnack⟩) fun hc' => absurd (hc.symm.trans hc') h01
  · exact dispatchResponse_unexpected hf (fun hc' => absurd (hc'.symm.trans hc) h01) fun _ => hreport

/-- Settles O21: with SET_POSITION running an ACK is `succeed`. -/
theorem ackEndsCallOk : Obligations.AckEndsCallOk := by
  intro s f hf hc
  simp only [exec, execAck, hf, if_pos hc]
  rfl

/-- Settles O22: the code is `nackCode` of either form of payload, and ATTEMPT decides between `raise` and `enterBackoff`. -/
theorem nackRetriesOrGivesUp : Obligations.NackRetriesOrGivesUp := by
  intro s f code hf hc hcode
  have hnack : nackCode f.payload = code := by
    rcases hcode with ⟨rest, hp⟩ | ⟨hp, rfl⟩ <;> rw [hp] <;> rfl
  have hexec : exec (.nack f) s = .next (answerNack code s) := by
    simp only [exec, execNack, hf, if_pos hc, hnack]
  rw [hexec]
  rcases answerNack_cases code s with ⟨ha, he⟩ | ⟨ha, he⟩ <;> rw [he]
  · exact ⟨fun _ => rfl, fun hn => absurd ha hn⟩
  · exact ⟨fun h2 => by simp [h2] at ha, fun _ => rfl⟩

/-- Settles O23: with GET_POSITION running a report is `answerReport`, whose two cases are told apart by the length. -/
theorem positionReportGivesPosition : Obligations.PositionReportGivesPosition := by
  intro s f hf hc
  have hexec : exec (.posreport f) s = .next (answerReport f.payload s) := by
    simp only [exec, execPosreport, hf, if_pos hc]
  rw [hexec]
  refine ⟨fun p0 p1 closed reserved ip rest hp => by rw [hp]; rfl, fun hl => ?_⟩
  rcases answerReport_cases f.payload s with ⟨-, he⟩ | ⟨hge, -⟩
  · rw [he]
    rfl
  · omega

/-- In DONE the event is the taking of the result (R221). -/
theorem portEvent_done {s : State} (hf : s.fsm = .done) :
    portEvent s = .next (if s.input.resReady then takeResult s else s) := by
  rw [portEvent, hf]
  exact (apply_ite _ _ _ _).symm

/-- Settles O27: a moment in DONE is its Tick and, when the host is ready, `takeResult`. -/
theorem resultHeldUntilTaken : Obligations.ResultHeldUntilTaken := by
  intro s hf hr
  refine ⟨by simp [State.outputs, hf], ?_⟩
  have hin : (tickIf s.input.tick s).input = s.input := by simp
  rw [step_event (timerDone_done hf) hr, portEvent_done (by simpa using hf), hin,
    tickIf_of_no_backoff _ (by simp [hf])]
  cases s.input.resReady
  · simp [dropInput, hf]
  · rfl

/-! ### Which inputs an event looks at (R224, R252) -/

/-- Other inputs to come, all else kept. -/
def State.withEnv (env : List Inputs) (s : State) : State := { s with env := env }

/-- The same for what a received byte leads to. -/
def ByteResult.withEnv (env : List Inputs) : ByteResult → ByteResult
  | .more s => .more (s.withEnv env)
  | .ended s => .ended (s.withEnv env)
  | .frameIn s => .frameIn (s.withEnv env)
  | .stop r => .stop r

/-- In XMIT the event looks at the transmit channel alone (R252). -/
theorem sendByte_withEnv {env : List Inputs} {s : State} (id : Byte) (f : Message)
    (he : (s.withEnv env).input.txErr = s.input.txErr)
    (hr : (s.withEnv env).input.txReady = s.input.txReady) :
    sendByte id f (s.withEnv env) = onNext (State.withEnv env) (sendByte id f s) := by
  have hsum : (s.withEnv env).txSum = s.txSum := rfl
  have hidx : (s.withEnv env).txIdx = s.txIdx := rfl
  unfold sendByte
  rw [he, hr, hsum, hidx]
  split
  · rfl
  split
  · split
    · rfl
    · split <;> rfl
  · rfl

theorem checkLength_withEnv (env : List Inputs) (s : State) :
    checkLength (s.withEnv env) = (checkLength s).withEnv env := by
  have hrx : (s.withEnv env).rx = s.rx := rfl
  unfold checkLength
  rw [hrx]
  split <;> rfl

theorem compareChecksum_withEnv (env : List Inputs) (s : State) :
    compareChecksum (s.withEnv env) = (compareChecksum s).withEnv env := by
  have hck : (s.withEnv env).rxCk = s.rxCk := rfl
  have hsum : (s.withEnv env).rxSum = s.rxSum := rfl
  unfold compareChecksum
  rw [hck, hsum]
  split <;> rfl

/-- DECODE looks at the byte it is given and at its own registers (R141 to R145). -/
theorem receiveByte_withEnv (env : List Inputs) (b : Byte) (s : State) :
    receiveByte b (s.withEnv env) = (receiveByte b s).withEnv env := by
  have hidx : (s.withEnv env).rxIdx = s.rxIdx := rfl
  have hrx : (s.withEnv env).rx = s.rx := rfl
  unfold receiveByte
  rw [hidx, hrx]
  split
  · rfl
  split
  · exact checkLength_withEnv env (headerByte b s)
  split
  · rfl
  split
  · rfl
  split
  · exact compareChecksum_withEnv env (checksumLow b s)
  · rfl

theorem answerNack_withEnv (env : List Inputs) (code : Byte) (s : State) :
    answerNack code (s.withEnv env) = (answerNack code s).withEnv env := by
  have hattempt : (s.withEnv env).attempt = s.attempt := rfl
  unfold answerNack
  rw [hattempt]
  split <;> rfl

theorem answerReport_withEnv (env : List Inputs) (p : List Byte) (s : State) :
    answerReport p (s.withEnv env) = (answerReport p s).withEnv env := by
  unfold answerReport
  split <;> rfl

/-- The response dispatch looks at no input (R200 to R214). -/
theorem dispatchResponse_withEnv (env : List Inputs) {s : State} (hf : s.fsm = .await) :
    dispatchResponse (s.withEnv env) = onNext (State.withEnv env) (dispatchResponse s) := by
  have hf' : (s.withEnv env).fsm = .await := hf
  rcases dispatchResponse_cases hf with ⟨hc, hid, he⟩ | ⟨hc, hid, he⟩ | ⟨hc, hid, he⟩ | ⟨h0, h1, he⟩ <;>
    rw [he, onNext_next]
  · exact dispatchResponse_ack hf' hc hid
  · rw [← answerNack_withEnv]
    exact dispatchResponse_nack hf' hc hid
  · rw [← answerReport_withEnv]
    exact dispatchResponse_posreport hf' hc hid
  · exact dispatchResponse_unexpected hf' h0 h1

/-- In AWAIT the event looks at the receive channel alone (R252). -/
theorem awaitEvent_withEnv {env : List Inputs} {s : State} (hf : s.fsm = .await)
    (hv : (s.withEnv env).input.rxValid = s.input.rxValid)
    (hb : (s.withEnv env).input.rxData = s.input.rxData)
    (he : (s.withEnv env).input.rxErr = s.input.rxErr) :
    awaitEvent (s.withEnv env) = onNext (State.withEnv env) (awaitEvent s) := by
  unfold awaitEvent
  rw [hv, hb, he, receiveByte_withEnv]
  split
  · rfl
  split
  · cases hu : receiveByte s.input.rxData s with
    | frameIn u =>
      obtain ⟨-, rfl, -⟩ := receiveByte_frameIn hu
      exact dispatchResponse_withEnv env (by simpa using hf)
    | more u => rfl
    | ended u => rfl
    | stop r => rfl
  · rfl

/-- A host command looks at its operands and the registers, at no other input (R192, R210). -/
theorem exec_hostCmd_withEnv (env : List Inputs) (op : BitVec 1) (pos : Word16) (s : State) :
    exec (decodeHostCmd op pos) (s.withEnv env) =
      onNext (State.withEnv env) (exec (decodeHostCmd op pos) s) := by
  have hfsm : (s.withEnv env).fsm = s.fsm := rfl
  unfold decodeHostCmd
  split
  · simp only [exec, execSetPosition, hfsm]
    split
    · split
      · rw [issueMessage_of_le _ _ _ (moveMessage_payload_le _ _),
          issueMessage_of_le _ _ _ (moveMessage_payload_le _ _)]
        rfl
      · rfl
    · rfl
  · simp only [exec, execGetPosition, hfsm]
    split
    · rw [issueMessage_of_le _ _ _ (queryMessage_payload_le _),
        issueMessage_of_le _ _ _ (queryMessage_payload_le _)]
      rfl
    · rfl

/-- The event of a port looks at the channel of the state it happens in (R252). -/
theorem portEvent_withEnv {env : List Inputs} {s : State}
    (h : sameInputsFor s.fsm s.input (s.withEnv env).input) :
    portEvent (s.withEnv env) = onNext (State.withEnv env) (portEvent s) := by
  obtain ⟨-, -, -, hchannel⟩ := h
  have hfsm : (s.withEnv env).fsm = s.fsm := rfl
  cases hf : s.fsm <;> simp only [portEvent, hfsm, hf] <;> simp only [hf] at hchannel
  case idle =>
    obtain ⟨hv, ho, hp⟩ := hchannel
    rw [← hv, ← ho, ← hp, exec_hostCmd_withEnv]
    split <;> rfl
  case xmit =>
    obtain ⟨hr, he⟩ := hchannel
    rw [transmitEvent_eq hf, transmitEvent_eq (hfsm.trans hf)]
    exact sendByte_withEnv _ _ he.symm hr.symm
  case await =>
    obtain ⟨hv, hb, he⟩ := hchannel
    exact awaitEvent_withEnv hf hv.symm hb.symm he.symm
  case done =>
    rw [← hchannel]
    split <;> rfl
  all_goals rfl

/-- A due transition looks at the free delay of the state that waits for it (R306). -/
theorem timerDone_withEnv {env : List Inputs} {s : State}
    (h : sameInputsFor s.fsm s.input (s.withEnv env).input) :
    timerDone (s.withEnv env) = timerDone s := by
  obtain ⟨-, -, -, hchannel⟩ := h
  have hfsm : (s.withEnv env).fsm = s.fsm := rfl
  cases hf : s.fsm <;> simp only [timerDone, timerExpired, hfsm, hf] <;> simp only [hf] at hchannel
  case space =>
    rw [← hchannel]
    rfl
  case backoff =>
    rw [← hchannel]
    rfl
  all_goals rfl

/-- A moment's inputs matter only where the state looks at them (R252): with others in their place, and the same to come after, the step is the same. -/
theorem step_withEnv {env : List Inputs} {s : State}
    (h : sameInputsFor s.fsm s.input (s.withEnv env).input) (hd : timerDone s = false)
    (henv : env.tail = s.env.tail) : step (s.withEnv env) = step s := by
  have hd' : timerDone (s.withEnv env) = false := (timerDone_withEnv h).trans hd
  obtain ⟨htick, hrst, hcfg, -⟩ := id h
  cases hr : s.input.rst
  case true =>
    rw [step_reset hd hr, step_reset hd' (hrst.symm.trans hr), ← hcfg]
    simp only [dropInput, resetRegisters, State.withEnv, henv]
  case false =>
    have hmoment : tickIf s.input.tick (s.withEnv env) = (tickIf s.input.tick s).withEnv env := by
      cases s.input.tick <;> rfl
    have hsame : sameInputsFor (tickIf s.input.tick s).fsm (tickIf s.input.tick s).input
        ((tickIf s.input.tick s).withEnv env).input := by
      simp only [tickIf_fields]
      exact h
    rw [step_event hd hr, step_event hd' (hrst.symm.trans hr), ← htick, hmoment, portEvent_withEnv hsame]
    cases hu : portEvent (tickIf s.input.tick s) with
    | next u =>
      have hkept : u.env = s.env := by simpa using (portEvent_transition hu).env
      simp only [onNext_next, dropInput, State.withEnv, henv, hkept]
    | fault r => rfl
    | refused r => rfl

/-- Outside IDLE the command channel is none of the inputs looked at (R224). -/
theorem sameInputsFor_command {q : Fsm} (hq : q ≠ .idle) (e : Inputs) (v : Bool) (op : BitVec 1)
    (pos : Word16) : sameInputsFor q e { e with cmdValid := v, cmdOp := op, cmdPos := pos } := by
  cases q
  case idle => exact absurd rfl hq
  all_goals simp [sameInputsFor]

/-- Settles O16: the commands test FSM first, and `step_withEnv` covers whatever the command channel shows. -/
theorem commandNotAcceptedDuringCall : Obligations.CommandNotAcceptedDuringCall := by
  refine ⟨fun s => by simp [State.outputs], fun s pos hf => ⟨if_neg hf, if_neg hf, ?_⟩⟩
  intro e es v op henv hd
  have hin : s.input = e := by simp [State.input, henv]
  refine step_withEnv (env := { e with cmdValid := v, cmdOp := op, cmdPos := pos } :: es) ?_ hd (by simp [henv])
  rw [hin]
  exact sameInputsFor_command hf e v op pos

end Sys2Proof.Machine

/-! PROOFS. The errors of 60_exceptions.md: what raising one writes (R250), what is retried and what ends the call (R258), and the two kinds of bad frame (R142, R243). -/

namespace Sys2Proof.Machine

/-! ### Raising an error (R250) -/

/-- Settles O26: `raise` writes `CallError.record` and FSM, so each of the six errors is that record written out. -/
theorem raiseWritesOnlyItsRegisters : Obligations.RaiseWritesOnlyItsRegisters := by
  intro s
  exact ⟨rfl, rfl, fun _ _ => rfl, rfl, fun _ => rfl, fun _ => rfl, rfl, rfl⟩

/-! ### What is retried (R258) -/

/-- The way of FSM in a step that neither ends the call nor is retried (R196, R197, R204, R220). -/
inductive QuietEdge : Fsm → Fsm → Prop where
  | stays (q : Fsm) : QuietEdge q q
  | accepted : QuietEdge .idle .space
  | started : QuietEdge .space .xmit
  | written : QuietEdge .xmit .await
  | backoffOver : QuietEdge .backoff .space
  | taken : QuietEdge .done .idle

/-- A good NACK has answered SET_POSITION with an attempt left, and the backoff begins (R202). -/
structure NackRetried (s t : State) : Prop where
  awaiting   : s.fsm = .await
  command    : s.cmdOp = 0
  msgid      : t.rx.msgid = idNack
  checksum   : t.rxCk = t.rxSum
  left       : s.attempt ≠ 2
  attempt    : t.attempt = s.attempt
  backoffCnt : t.backoffCnt = nBackoff
  fsm        : t.fsm = .backoff

/-- RES_STATUS is kept or cleared. -/
def NoNewError (s t : State) : Prop := t.res.status = s.res.status ∨ t.res.status = .ok

/-- A step ends the call, retries after a NACK, or goes its quiet way; only the first raises an error (R258). -/
inductive EndsOrRetriesOrQuiet (s t : State) : Prop where
  | ends (ht : t.fsm = .done)
  | retries (h : NackRetried s t) (hres : NoNewError s t)
  | quiet (h : QuietEdge s.fsm t.fsm) (hres : NoNewError s t)

/-- A good frame is retried only by the row for a NACK with an attempt left; every other row ends the call (R200 to R214). -/
theorem DispatchRow.endsOrRetries {s t : State} (h : DispatchRow s t) (hf : s.fsm = .await)
    (hck : s.rxCk = s.rxSum) : EndsOrRetriesOrQuiet s t := by
  cases h
  case nackRetry hc hm ha =>
    have hleft : s.attempt ≠ 2 := fun h2 => by simp [h2] at ha
    exact .retries ⟨hf, hc, hm, hck, hleft, rfl, rfl, rfl⟩ (.inl rfl)
  all_goals exact .ends rfl

/-- What is retried or quiet at the moment of the event was so before the second checksum byte was stored (R144). -/
theorem EndsOrRetriesOrQuiet.of_checksum_byte {s t : State} {ck : Word16} {i : Fin 32}
    (h : EndsOrRetriesOrQuiet { s with rxCk := ck, rxIdx := i } t) : EndsOrRetriesOrQuiet s t := by
  rcases h with ht | ⟨hr, hres⟩ | ⟨hq, hres⟩
  · exact .ends ht
  · exact .retries { hr with } hres
  · exact .quiet hq hres

/-- Every row of the table ends the call, retries after a NACK, or is quiet (R220, R258). -/
theorem Transition.endsOrRetriesOrQuiet {s t : State} (h : Transition s t) :
    EndsOrRetriesOrQuiet s t := by
  cases h
  case setValid hf _ _ _ _ _ => exact .quiet (hf ▸ .accepted) (.inr rfl)
  case getAccepted hf _ _ _ _ => exact .quiet (hf ▸ .accepted) (.inr rfl)
  case bodyByteTaken => exact .quiet (.stays _) (.inl rfl)
  case checksumByteTaken => exact .quiet (.stays _) (.inl rfl)
  case writeComplete hf _ _ _ => exact .quiet (hf ▸ .written) (.inl rfl)
  case byteRead hu =>
    rw [receiveByte_more_frame hu]
    exact .quiet (.stays _) (.inl rfl)
  case frameGood hf _ _ _ _ hu hck hd =>
    subst hu
    exact (hd.endsOrRetries hf hck).of_checksum_byte
  case resultTaken hf _ => exact .quiet (hf ▸ .taken) (.inl rfl)
  case stays => exact .quiet (.stays _) (.inl rfl)
  all_goals exact .ends rfl

/-- The Tick before an event and the end of its inputs are no part of it (R170). -/
theorem EndsOrRetriesOrQuiet.of_moment {b : Bool} {s u : State}
    (h : EndsOrRetriesOrQuiet (tickIf b s) u) : EndsOrRetriesOrQuiet s (dropInput u) := by
  rcases h with ht | ⟨hr, hres⟩ | ⟨hq, hres⟩
  · exact .ends ht
  · have hnack : NackRetried s (dropInput u) :=
      { hr with
        awaiting := by simpa using hr.awaiting
        command := by simpa using hr.command
        left := by simpa using hr.left
        attempt := by simpa using hr.attempt }
    exact .retries hnack (by simpa [NoNewError] using hres)
  · exact .quiet (by simpa using hq) (by simpa [NoNewError] using hres)

/-- The timers move FSM quietly, and every other step but a reset is a row of the table (R220, R258). -/
theorem step_endsOrRetriesOrQuiet {s t : State} (h : step s = .next t) (hr : isResetStep s = false) :
    EndsOrRetriesOrQuiet s t := by
  rcases step_cases h with ⟨hf, -, -, rfl⟩ | ⟨hf, -, -, _, rfl⟩ | ⟨hd, hrst, -⟩ | ⟨-, -, u, hu, rfl⟩
  · exact .quiet (hf ▸ .started) (.inl rfl)
  · exact .quiet (hf ▸ .backoffOver) (.inl rfl)
  · rw [(isResetStep_iff s).mpr ⟨hd, hrst⟩] at hr
    cases hr
  · exact (portEvent_transition hu).endsOrRetriesOrQuiet.of_moment

/-- A quiet edge does not lead into BACKOFF. -/
theorem QuietEdge.ne_backoff {q r : Fsm} (h : QuietEdge q r) (hq : q ≠ .backoff) : r ≠ .backoff := by
  cases h
  case stays => exact hq
  all_goals decide

/-- From XMIT a quiet edge goes on sending or to AWAIT (R136, R197). -/
theorem QuietEdge.of_xmit {q : Fsm} (h : QuietEdge .xmit q) : q = .xmit ∨ q = .await := by
  cases h
  · exact .inl rfl
  · exact .inr rfl

/-- From AWAIT a quiet edge goes nowhere else (R141). -/
theorem QuietEdge.of_await {q : Fsm} (h : QuietEdge .await q) : q = .await := by
  cases h
  rfl

/-- Settles O46: of the three kinds of step (`step_endsOrRetriesOrQuiet`) only the retry enters BACKOFF, and only the end of the call raises an error. -/
theorem retryOnlyAfterNack : Obligations.RetryOnlyAfterNack := by
  intro s t h hr
  rcases step_endsOrRetriesOrQuiet h hr with ht | ⟨hn, hres⟩ | ⟨hq, hres⟩
  · simp [ht]
  · refine ⟨fun _ _ => ⟨hn.awaiting, hn.command, hn.msgid, hn.checksum, hn.left, hn.attempt, hn.backoffCnt⟩,
      fun hx => ?_, fun _ => Or.inr (Or.inl hn.fsm), fun hne hok => absurd hres (not_or.mpr ⟨hne, hok⟩)⟩
    simp [hn.awaiting] at hx
  · exact ⟨fun hs ht => absurd ht (hq.ne_backoff hs), fun hx => (hx ▸ hq).of_xmit.imp_right .inl,
      fun ha => .inl (ha ▸ hq).of_await, fun hne hok => absurd hres (not_or.mpr ⟨hne, hok⟩)⟩

/-! ### Bad frames (R142, R145, R243) -/

/-- The bytes `w` of a header that is not yet whole are in the receive registers (R141). -/
structure HeaderReceived (w : List Byte) (s : State) : Prop where
  index : s.rxIdx.val = w.length
  bytes : s.rx.wire.take w.length = w

/-- One more header byte stored is one more byte received (R141). -/
theorem HeaderReceived.headerByte {w : List Byte} {s : State} (h : HeaderReceived w s)
    (hw : w.length < hdrLen) (b : Byte) : HeaderReceived (w ++ [b]) (headerByte b s) where
  index := by
    rw [hdrLen_eq] at hw
    simp only [headerByte_fields, List.length_append, List.length_singleton]
    rw [index_succ _ (by rw [h.index]; omega), h.index]
  bytes := by
    simp only [headerByte_fields, h.index, List.length_append, List.length_singleton]
    rw [rxWire_storeHeader hw, h.bytes]

/-- The Tick before an event is no matter of DECODE (R170). -/
theorem HeaderReceived.tickIf {w : List Byte} {s : State} (h : HeaderReceived w s) (b : Bool) :
    HeaderReceived w (tickIf b s) where
  index := by simp [h.index]
  bytes := by simp [h.bytes]

/-- The second byte of the header is RX_COMB (R141). -/
theorem HeaderReceived.comb {m c : Byte} {w : List Byte} {s : State}
    (h : HeaderReceived (m :: c :: w) s) : s.rx.comb = inv c := by
  have hbyte := congrArg (·[1]?) h.bytes
  simp only [List.getElem?_take_of_lt (show 1 < (m :: c :: w).length by simp)] at hbyte
  have hcomb : inv s.rx.comb = c := Option.some.inj hbyte
  rw [← hcomb, inv_inv]

/-- Header bytes short of the ninth, delivered byte by byte, are received whatever they hold, and the call goes on (R141). -/
theorem runFor_header (es rest : List Inputs) :
    ∀ {w : List Byte} {s : State}, HeaderReceived w s → s.fsm = .await → s.env = es ++ rest →
      w.length + es.length ≤ 8 → (∀ e ∈ es, e.delivers) →
      ∃ t, runFor es.length s = .next t ∧ HeaderReceived (w ++ es.map Inputs.rxData) t ∧
        KeptInReception s t ∧ t.env = rest := by
  induction es with
  | nil => exact fun h _ henv _ _ => ⟨_, rfl, by simpa using h, .refl _, henv⟩
  | cons e es ih =>
    intro w s h hs henv hlen hdel
    rw [List.length_cons] at hlen
    obtain ⟨he, hdel⟩ := List.forall_mem_cons.mp hdel
    have htick := h.tickIf e.tick
    have hmore := receiveByte_header e.rxData (s := tickIf e.tick s) (by rw [htick.index]; omega)
    obtain ⟨hstep, hkept, henvu⟩ := step_of_more hs henv he hmore
    have hrec := htick.headerByte (by rw [hdrLen_eq]; omega) e.rxData
    have hdrop : HeaderReceived (w ++ [e.rxData]) (dropInput (headerByte e.rxData (tickIf e.tick s))) :=
      ⟨hrec.index, hrec.bytes⟩
    obtain ⟨t, hrun, ht, hkt, henvt⟩ := ih hdrop (hkept.fsm.trans hs) henvu (by simp; omega) hdel
    exact ⟨t, (runFor_succ_of_step hstep).trans hrun, by simpa using ht, hkept.trans hkt, henvt⟩

/-- The ninth byte of a header with LEN below 11 ends the call, and is the last one consumed (R142, R243). -/
theorem step_of_short_ninth {s : State} {e : Inputs} {es : List Inputs} (hf : s.fsm = .await)
    (henv : s.env = e :: es) (he : e.delivers) (hi : s.rxIdx.val = 8)
    (hlen : lenField s.rx.comb < overhead) :
    step s = .next (dropInput (raise .malformed (headerByte e.rxData (tickIf e.tick s)))) := by
  rw [step_of_delivers hf henv he, receiveByte_ninth_short _ (by simpa using hi) (by simpa using hlen)]
  rfl

/-- Nine bytes with LEN below 11, delivered to a DECODE that begins, end the call with nothing after them consumed (R142, R243). -/
theorem runFor_short_header {m c b : Byte} {w : List Byte} {s : State} {es rest : List Inputs}
    (hs : s.fsm = .await) (hidx : s.rxIdx = 0) (henv : s.env = es ++ rest)
    (hdel : ∀ e ∈ es, e.delivers) (hes : es.map Inputs.rxData = (m :: c :: w) ++ [b])
    (hw : (m :: c :: w).length = 8) (hlen : lenField (inv c) < overhead) :
    ∃ t, runFor 9 s = .next t ∧ t.fsm = .done ∧
      t.res = { s.res with status := .malformedFrameError } ∧ t.env = rest ∧ t.rxIdx = 9 := by
  obtain ⟨head, last, rfl, hhead, hlast⟩ := List.map_eq_append_iff.mp hes
  obtain ⟨e, rfl, -⟩ := List.map_eq_singleton_iff.mp hlast
  obtain ⟨hdelHead, hdelLast⟩ := List.forall_mem_append.mp hdel
  have h8 : head.length = 8 := by rw [← hw, ← hhead, List.length_map]
  obtain ⟨u, hrun, hu, hkept, henvu⟩ := runFor_header head ([e] ++ rest) (w := [])
    ⟨by simp [hidx], rfl⟩ hs (by rw [henv, List.append_assoc]) (by simp [h8]) hdelHead
  rw [List.nil_append, hhead] at hu
  obtain ⟨-, -, -, -, -, hres, -⟩ := hkept.fields
  have hidxu : u.rxIdx.val = 8 := hu.index.trans hw
  have hstep := step_of_short_ninth (hkept.fsm.trans hs) henvu (hdelLast e (by simp)) hidxu
    (hu.comb ▸ hlen)
  refine ⟨dropInput (raise .malformed (headerByte e.rxData (tickIf e.tick u))), ?_, rfl,
    by simp [CallError.record, hres], by simp [henvu], Fin.ext ?_⟩
  · rw [← hstep, ← runFor_one, ← runFor_add hrun, h8]
  · simp only [dropInput_fields, raise_fields, headerByte_fields, tickIf_fields]
    rw [index_succ _ (by omega), hidxu]
    rfl

/-- Settles O51: `runFor_short_header` for a LEN below 11; `runFor_frame` with checksum bytes that compare unequal (R145). -/
theorem badFramesEndTheCall : Obligations.BadFramesEndTheCall := by
  intro s es rest hs hidx hsum _ henv hdel
  refine ⟨fun m c n s0 s1 s2 d0 d1 d2 hes hlen => ?_, fun id f hi lo hf hes hne => ?_⟩
  · exact runFor_short_header (w := [n, s0, s1, s2, d0, d1]) hs hidx henv hdel hes rfl hlen
  · obtain ⟨t, hrun, ht, hkept, henvt⟩ := runFor_frame hf hs hidx hsum henv hes hdel
    obtain ⟨-, -, -, -, -, hres, -⟩ := hkept.fields
    have hck : t.rxCk ≠ t.rxSum := by rw [ht.ck, ht.sum]; exact hne
    refine ⟨dropInput (raise (.checksum t.rxSum t.rxCk) t), ?_, rfl, ?_, henvt, ht.message⟩
    · rw [hrun, compareChecksum, if_neg hck]
      rfl
    · simp [CallError.record, hres, ht.sum, ht.ck]

end Sys2Proof.Machine

/-! PROOFS. Whole images of 30_encoding.md and 95_test_vectors.md: decoding what was encoded, the words written out, and a rearranged payload (R91, R106, R107, R149). -/

namespace Sys2Proof.Machine

/-! ### Decoding what was encoded (R91, R106, R107) -/

/-- Settles O6: the host commands by the two values of `cmd_op`, the messages by `decode_wireImage` and their row of the message map. -/
theorem decodeEncodeRoundTrip : Obligations.DecodeEncodeRoundTrip := by
  intro i h
  cases i with
  | setPosition pos => rfl
  | getPosition => rfl
  | move f => exact (decode_wireImage idMove h).trans (messageOf_move f)
  | query f => exact (decode_wireImage idQuery h).trans (messageOf_query f)
  | posreport f => exact (decode_wireImage idPosreport h).trans (messageOf_posreport f)
  | nack f => exact (decode_wireImage idNack h).trans (messageOf_nack f)
  | ack f => exact (decode_wireImage idAck h).trans (messageOf_ack f)

/-- Settles O10: seven closed words, each evaluated. -/
theorem writtenOutWordsDecode : Obligations.WrittenOutWordsDecode :=
  ⟨by decide, by decide, by decide, by decide, by decide, rfl, rfl⟩

/-! ### A rearranged payload (R149) -/

/-- The sum does not see the order of its bytes (R132). -/
theorem checksum_perm {v w : List Byte} (h : v.Perm w) : checksum v = checksum w := by
  rw [checksum, checksum, (h.map BitVec.toNat).sum_eq]

/-- A rearranged payload is a rearrangement of the wire bytes (R91). -/
theorem bodyBytes_perm (id : Byte) {f : Message} {p : List Byte} (h : p.Perm f.payload) :
    (bodyBytes id { f with payload := p }).Perm (bodyBytes id f) :=
  (h.append_left ([id, f.comb, f.node] ++ addrBytes f.src ++ addrBytes f.dst)).map inv

/-- Settles O8: the rearranged frame is well formed too, so it is read whole (`decodeStream_body`), and its checksum is the original one (`checksum_perm`). -/
theorem rearrangedPayloadPassesDecode : Obligations.RearrangedPayloadPassesDecode := by
  intro id f p h hp
  obtain ⟨hle, hlen⟩ := (wf_iff f).mp h
  have hwf : ({ f with payload := p } : Message).wf = true :=
    (wf_iff _).mpr ⟨hp.length_eq.trans_le hle, hlen.trans (by rw [hp.length_eq])⟩
  rw [List.map_append, decodeStream_body id hwf, ← checksum_perm (bodyBytes_perm id hp)]
  exact if_pos (u16be_hi_lo _)

end Sys2Proof.Machine

/-! PROOFS. What every step keeps: the ranges of the counters and indexes (R23 to R31), the running sums (R28, R31), the frame of the call (R27, R79), the result registers (R32 to R34), and that the core never stops within the ranges (U11). -/

namespace Sys2Proof.Machine

/-- A predicate that reset establishes and that the timer transitions, the Tick, the rows of the table and the end of a moment's inputs keep is kept by every step (R170, R196, R204, R220, R255). -/
theorem step_keeps {P : State → Prop}
    (start : ∀ s, P s → s.fsm = .space → P (startTransmission s))
    (retry : ∀ s (a : Fin 3), P s → s.fsm = .backoff → a.val = s.attempt.val + 1 →
      P { s with attempt := a, fsm := .space })
    (reset : ∀ cfg s, P (resetRegisters cfg s))
    (ticks : ∀ b s, P s → P (tickIf b s))
    (row : ∀ s t, P s → Transition s t → P t)
    (drop : ∀ s, P s → P (dropInput s))
    {s t : State} (hs : P s) (h : step s = .next t) : P t := by
  rcases step_cases h with ⟨hf, -, -, rfl⟩ | ⟨hf, -, -, _, rfl⟩ | ⟨-, -, rfl⟩ | ⟨-, -, u, hu, rfl⟩
  · exact start s hs hf
  · exact retry s _ hs hf rfl
  · exact drop _ (reset _ s)
  · exact drop u (row _ u (ticks _ s hs) (portEvent_transition hu))

/-! ### The counters and indexes (R23, R24, R26, R28, R31) -/

/-- The ranges of DECODE while it goes on: the index in the header, or RX_PCOUNT as LEN says and the index within the frame (R31, R142). -/
def RxInRange (r : RxFrame) (i : Fin 32) : Prop :=
  i.val < hdrLen ∨
    (overhead ≤ lenField r.comb ∧ r.pcount = payloadCount r.comb ∧ i.val ≤ hdrLen + 1 + r.pcount.val)

/-- A byte that leaves DECODE unfinished advances RX_IDX, which stays below 31 (R141 to R144). -/
theorem rxIdx_of_more {b : Byte} {s u : State} (h : receiveByte b s = .more u) :
    s.rxIdx.val < 30 ∧ u.rxIdx.val = s.rxIdx.val + 1 := by
  have h9 := hdrLen_eq
  have hp := s.rx.pcount.isLt
  have hlt : s.rxIdx.val < 30 := by
    rcases receiveByte_more h with ⟨hi, -⟩ | ⟨hi, -, -⟩ | ⟨-, hi, -⟩ | ⟨hi, -⟩ <;> omega
  have hidx : u.rxIdx = s.rxIdx + 1 := by
    rcases receiveByte_more h with ⟨-, rfl⟩ | ⟨-, -, rfl⟩ | ⟨-, -, rfl⟩ | ⟨-, rfl⟩ <;> rfl
  exact ⟨hlt, by rw [hidx, index_succ _ (by omega)]⟩

/-- A byte that leaves DECODE unfinished leaves it in its ranges (R141 to R144). -/
theorem rxInRange_of_more {b : Byte} {s u : State} (hs : RxInRange s.rx s.rxIdx)
    (h : receiveByte b s = .more u) : RxInRange u.rx u.rxIdx := by
  have h9 := hdrLen_eq
  obtain ⟨-, hnext⟩ := rxIdx_of_more h
  have hframe : hdrLen ≤ s.rxIdx.val → overhead ≤ lenField s.rx.comb ∧ s.rx.pcount = payloadCount s.rx.comb :=
    fun hge => (hs.resolve_left (by omega)).imp_right And.left
  rcases receiveByte_more h with ⟨hi, rfl⟩ | ⟨hi, hlen, rfl⟩ | ⟨hge, hi, rfl⟩ | ⟨hi, rfl⟩
  · exact Or.inl (by omega)
  · have hcomb := headerByte_comb_of_ninth b hi
    exact Or.inr ⟨by rw [hcomb]; exact hlen, by rw [hcomb], by omega⟩
  · obtain ⟨hlen, hcount⟩ := hframe hge
    exact Or.inr ⟨hlen, hcount, hnext.trans_le (show _ ≤ hdrLen + 1 + s.rx.pcount.val by omega)⟩
  · obtain ⟨hlen, hcount⟩ := hframe (by omega)
    exact Or.inr ⟨hlen, hcount, hnext.trans_le (show _ ≤ hdrLen + 1 + s.rx.pcount.val by omega)⟩

/-- A Tick lowers the counters and keeps everything else (R170). -/
theorem ControlInv.tickIf {s : State} (h : ControlInv s) (b : Bool) : ControlInv (tickIf b s) where
  space := by simpa using (Nat.sub_le ..).trans h.space
  backoff := by
    rw [tickIf_backoffCnt]
    exact (Nat.sub_le ..).trans h.backoff
  retry := by simpa using h.retry
  single := by simpa using h.single
  txIndex := by simpa using h.txIndex
  rxIndex := by simpa using h.rxIndex

/-- The registers of a state in which no timer, no transmission and no DECODE goes on. -/
theorem controlInv_of_rest {s : State} (hspace : s.spaceCnt ≤ nSpace) (hbackoff : s.backoffCnt ≤ nBackoff)
    (hsingle : s.cmdOp = 1 → s.attempt = 0) (hf : s.fsm = .idle ∨ s.fsm = .space ∨ s.fsm = .done) :
    ControlInv s := by
  refine ⟨hspace, hbackoff, fun hb => ?_, hsingle, fun hx => ?_, fun ha => ?_⟩ <;>
    rcases hf with hf | hf | hf <;> simp_all

/-- The dispatch of a good frame leads to DONE, or to BACKOFF with an attempt left (R200 to R214). -/
theorem controlInv_of_dispatch {s t : State} (h : DispatchRow s t) (hspace : s.spaceCnt ≤ nSpace)
    (hbackoff : s.backoffCnt ≤ nBackoff) (hsingle : s.cmdOp = 1 → s.attempt = 0) : ControlInv t := by
  cases h
  case nackRetry hc _ ha =>
    exact ⟨hspace, Nat.le_refl _, fun _ => ⟨Nat.le_of_lt_succ ha, hc⟩, hsingle, by simp, by simp⟩
  all_goals exact controlInv_of_rest hspace hbackoff hsingle (Or.inr (Or.inr rfl))

/-- Every row of the table keeps the ranges (R220). -/
theorem ControlInv.transition {s t : State} (h : ControlInv s) (hr : Transition s t) : ControlInv t := by
  have h9 := hdrLen_eq
  have hp := s.tx.pcount.isLt
  have hacc : (0 : BitVec 1) ≠ 1 := by decide
  cases hr
  case setInvalid => exact controlInv_of_rest h.space h.backoff (absurd · hacc) (by simp)
  case setValid => exact controlInv_of_rest h.space h.backoff (absurd · hacc) (by simp)
  case getAccepted => exact controlInv_of_rest h.space h.backoff (fun _ => rfl) (by simp)
  case bodyByteTaken hf _ _ hi =>
    rw [bodyBytes_length, txMessage_payload_length] at hi
    refine ⟨h.space, h.backoff, by simp [hf], h.single, fun _ => ?_, by simp [hf]⟩
    have hnext := index_succ s.txIdx (by omega)
    simp only [hnext]
    omega
  case checksumByteTaken hf _ _ hi =>
    refine ⟨h.space, h.backoff, by simp [hf], h.single, fun _ => ?_, by simp [hf]⟩
    have hnext := index_succ s.txIdx (by omega)
    simp only [hnext]
    omega
  case writeComplete =>
    exact ⟨Nat.le_refl _, h.backoff, by simp, h.single, by simp, fun _ => Or.inl (by simp [h9])⟩
  case writeFailure => exact controlInv_of_rest (Nat.le_refl _) h.backoff h.single (by simp)
  case byteRead hf _ _ hu =>
    have hrange := rxInRange_of_more (h.rxIndex hf) hu
    rw [receiveByte_more_frame hu]
    exact ⟨h.space, h.backoff, by simp [hf], h.single, by simp [hf], fun _ => hrange⟩
  case readFailure => exact controlInv_of_rest h.space h.backoff h.single (by simp)
  case badLength => exact controlInv_of_rest h.space h.backoff h.single (by simp)
  case badChecksum hu _ =>
    subst hu
    exact controlInv_of_rest h.space h.backoff h.single (by simp)
  case frameGood hu _ hd =>
    subst hu
    exact controlInv_of_dispatch hd h.space h.backoff h.single
  case resultTaken => exact controlInv_of_rest h.space h.backoff h.single (by simp)
  case stays => exact h

/-- The end of a backoff leads to SPACE in a SET_POSITION, so ATTEMPT may grow (R202, R204). -/
theorem ControlInv.retrySpace {s : State} (h : ControlInv s) (hf : s.fsm = .backoff) (a : Fin 3) :
    ControlInv { s with attempt := a, fsm := .space } := by
  obtain ⟨-, hop⟩ := h.retry hf
  refine controlInv_of_rest h.space h.backoff (fun h1 => ?_) (by simp)
  exact absurd (hop.symm.trans h1) (by decide)

/-- Reset arms the spacing and clears the other counters (R44). -/
theorem controlInv_reset (cfg : BitVec 24) (s : State) : ControlInv (resetRegisters cfg s) :=
  controlInv_of_rest (Nat.le_refl _) (Nat.zero_le _) (fun _ => rfl) (Or.inl rfl)

/-- A transmission starts at index 0 (R196). -/
theorem ControlInv.startTransmission {s : State} (h : ControlInv s) : ControlInv (startTransmission s) :=
  ⟨h.space, h.backoff, by simp, h.single, fun _ => Nat.zero_le _, by simp⟩

/-- Settles O52: `step_keeps`, with `ControlInv.transition` for the rows of the table. -/
theorem controlInvKept : Obligations.ControlInvKept := by
  intro s t hs h
  refine step_keeps (P := ControlInv) (fun s hs _ => hs.startTransmission) (fun s a hs hf _ => hs.retrySpace hf a)
    controlInv_reset (fun b s hs => hs.tickIf b) (fun s t hs => hs.transition) (fun s hs => ?_) hs h
  exact ⟨hs.space, hs.backoff, hs.retry, hs.single, hs.txIndex, hs.rxIndex⟩

/-! ### The running sums (R28, R31) -/

/-- RX_SUM is the checksum of the first RX_IDX bytes of the frame in the receive registers, and a byte that leaves DECODE unfinished keeps it so (R141 to R144). -/
theorem rxSum_of_more {b : Byte} {s u : State} (h : receiveByte b s = .more u)
    (hs : s.rxSum = checksum (s.rx.wire.take s.rxIdx.val)) :
    u.rxSum = checksum (u.rx.wire.take u.rxIdx.val) := by
  have h9 := hdrLen_eq
  obtain ⟨-, hnext⟩ := rxIdx_of_more h
  rw [hnext]
  rcases receiveByte_more h with ⟨hi, rfl⟩ | ⟨hi, -, rfl⟩ | ⟨hge, hi, rfl⟩ | ⟨hi, rfl⟩
  · simp only [headerByte_fields]
    rw [rxWire_storeHeader (by omega), checksum_append, ← hs]
  · simp only [headerByte_fields]
    rw [hi, show 8 + 1 = hdrLen from rfl, rxWire_setPcount, show hdrLen = 8 + 1 from rfl,
      rxWire_storeHeader (by decide), checksum_append, hs, hi]
  · obtain ⟨k, hk⟩ : ∃ k, s.rxIdx.val = hdrLen + k := ⟨s.rxIdx.val - hdrLen, by omega⟩
    simp only [payloadByte_fields]
    rw [hk, Nat.add_sub_cancel_left, rxWire_setPayload _ _ (by omega), checksum_append, hs, hk]
  · have hlen : s.rx.wire.length = hdrLen + s.rx.pcount.val := by simp [RxFrame.wire]
    simp only [checksumHigh_fields]
    rw [List.take_of_length_le (by omega), hs, List.take_of_length_le (by omega)]

/-- A state with neither a transmission nor a DECODE going on has no sum to keep. -/
theorem sumInv_of_rest {s : State} (hx : s.fsm ≠ .xmit) (ha : s.fsm ≠ .await) : SumInv s :=
  ⟨fun h => absurd h hx, fun h => absurd h ha⟩

/-- The dispatch of a good frame leaves AWAIT, so no sum runs on (R200 to R214). -/
theorem sumInv_of_dispatch {s t : State} (h : DispatchRow s t) : SumInv t := by
  cases h <;> exact sumInv_of_rest (by simp) (by simp)

/-- Every row of the table keeps the sums (R220). -/
theorem SumInv.transition {s t : State} (h : SumInv s) (hr : Transition s t) : SumInv t := by
  cases hr
  case bodyByteTaken hf _ _ hi =>
    refine ⟨fun _ => ?_, by simp [hf]⟩
    have hlt := hi
    have hp := s.tx.pcount.isLt
    rw [bodyBytes_length, txMessage_payload_length, hdrLen_eq] at hlt
    have hnext := index_succ s.txIdx (by omega)
    simp only [hnext]
    rw [checksum_take_succ _ _ hi, h.txSum hf]
  case checksumByteTaken hf _ _ hi =>
    refine ⟨fun _ => ?_, by simp [hf]⟩
    have hp := s.tx.pcount.isLt
    have hlen : (bodyBytes s.tx.msgid s.tx.message).length = s.txIdx.val := by
      rw [bodyBytes_length, txMessage_payload_length, hdrLen_eq, hi]
    have hnext := index_succ s.txIdx (by omega)
    simp only [hnext]
    rw [h.txSum hf, List.take_of_length_le hlen.le, List.take_of_length_le (by omega)]
  case writeComplete => exact ⟨by simp, fun _ => rfl⟩
  case byteRead hf _ _ hu =>
    have hsum := rxSum_of_more hu (h.rxSum hf)
    rw [receiveByte_more_frame hu]
    exact ⟨by simp [hf], fun _ => hsum⟩
  case frameGood hd => exact sumInv_of_dispatch hd
  case stays => exact h
  all_goals exact sumInv_of_rest (by simp) (by simp)

/-- Every step keeps the sums: a transmission starts with none, and reset and a retry end what was summed (R140, R196). -/
theorem SumInv.step {s t : State} (hs : SumInv s) (h : step s = .next t) : SumInv t :=
  step_keeps (P := SumInv) (fun _ _ _ => ⟨fun _ => rfl, by simp⟩)
    (fun _ _ _ _ _ => sumInv_of_rest (by simp) (by simp))
    (fun _ _ => sumInv_of_rest (by simp [State.reset]) (by simp [State.reset]))
    (fun _ _ hs => ⟨by simpa using hs.txSum, by simpa using hs.rxSum⟩)
    (fun _ _ hs => hs.transition) (fun _ hs => ⟨hs.txSum, hs.rxSum⟩) hs h

/-- Settles O53: `SumInv.step`, whose rows of the table are `SumInv.transition`. -/
theorem runningSumsKept : Obligations.RunningSumsKept := fun _ _ _ hs h => hs.step h

/-! ### The frame of the call (R27, R79, R193, R210) -/

/-- A state that keeps CMD_OP, the frame and MOTOR_ADDR, and enters no call, keeps the frame of the call. -/
theorem CallFrameInv.of_kept {s t : State} (h : CallFrameInv s) (hc : inCall t.fsm = true → inCall s.fsm = true)
    (hop : t.cmdOp = s.cmdOp) (hm : t.motorAddr = s.motorAddr) (htx : t.tx = s.tx) : CallFrameInv t := by
  intro ht
  rw [hop, hm, htx]
  exact h (hc ht)

/-- Outside a call there is no frame to keep. -/
theorem callFrameInv_of_not_inCall {s : State} (h : inCall s.fsm = false) : CallFrameInv s :=
  fun hc => absurd (h.symm.trans hc) (by decide)

/-- A retry keeps the frame of the call, every other dispatch ends the call (R202, R258). -/
theorem callFrameInv_of_dispatch {s t : State} (hd : DispatchRow s t) (hf : s.fsm = .await)
    (h : CallFrameInv s) : CallFrameInv t := by
  cases hd
  case nackRetry => exact h.of_kept (fun _ => by rw [hf]; rfl) rfl rfl rfl
  all_goals exact callFrameInv_of_not_inCall rfl

/-- Acceptance builds the frame of its call, and no other row of the table writes it (R79, R193, R210). -/
theorem CallFrameInv.transition {s t : State} (h : CallFrameInv s) (hr : Transition s t) :
    CallFrameInv t := by
  cases hr
  case setValid _ _ _ hp hm ht => exact fun _ => Or.inl ⟨rfl, hm, _, hp, ht⟩
  case getAccepted _ _ _ hm ht => exact fun _ => Or.inr ⟨rfl, hm, ht⟩
  case bodyByteTaken => exact h.of_kept id rfl rfl rfl
  case checksumByteTaken => exact h.of_kept id rfl rfl rfl
  case writeComplete hf _ _ _ => exact h.of_kept (fun _ => by rw [hf]; rfl) rfl rfl rfl
  case byteRead hu =>
    rw [receiveByte_more_frame hu]
    exact h.of_kept id rfl rfl rfl
  case frameGood hf _ _ _ _ hu _ hd =>
    subst hu
    exact callFrameInv_of_dispatch hd hf (h.of_kept id rfl rfl rfl)
  case stays => exact h
  all_goals exact callFrameInv_of_not_inCall rfl

/-- Settles O54: `step_keeps`, with `CallFrameInv.transition` for the rows of the table. -/
theorem callFrameKept : Obligations.CallFrameKept := by
  intro s t hs h
  refine step_keeps (P := CallFrameInv) (fun s hs hf => hs.of_kept (fun _ => by rw [hf]; rfl) rfl rfl rfl)
    (fun s a hs hf _ => hs.of_kept (fun _ => by rw [hf]; rfl) rfl rfl rfl)
    (fun cfg s => callFrameInv_of_not_inCall rfl)
    (fun b s hs => hs.of_kept (by simp) (by simp) (by simp) (by simp))
    (fun s t hs => hs.transition) (fun s hs => hs) hs h

/-! ### The result registers (R32 to R34, R247, R251) -/

/-- In a call the results are clear but for the code of a NACK (R34, R202). -/
theorem ResultInv.pos_of_inCall {s : State} (h : ResultInv s) (hc : inCall s.fsm = true) : s.res.pos = 0 := by
  rw [h.cleared hc]
  rfl

/-- A call that goes on writes no result but the code of a NACK (R202). -/
theorem ResultInv.goes_on {s t : State} (h : ResultInv s) (hs : inCall s.fsm = true) (ht : inCall t.fsm = true)
    (hres : t.res = { s.res with errcode := t.res.errcode }) : ResultInv t where
  cleared := fun _ => by rw [hres, h.cleared hs]
  noPos := fun hd => by simp [hd, inCall] at ht
  range := by
    rw [hres]
    exact h.range
  outcomes := fun hd => by simp [hd, inCall] at ht

/-- A call that ends without a position leaves RES_POS 0 (R33, R251). -/
theorem ResultInv.ends {s t : State} (h : ResultInv s) (hs : inCall s.fsm = true) (ht : t.fsm = .done)
    (hpos : t.res.pos = s.res.pos)
    (hout : t.cmdOp = 1 → t.res.status ≠ .validationError ∧ t.res.status ≠ .maxRetriesExceededError) :
    ResultInv t where
  cleared := fun hc => by simp [ht, inCall] at hc
  noPos := fun _ _ => hpos.trans (h.pos_of_inCall hs)
  range := by
    rw [hpos]
    exact h.range
  outcomes := fun _ => hout

/-- The registers of a call just accepted, or refused at acceptance (R192, R210). -/
theorem resultInv_of_acceptance {s : State} {status : Status}
    (hres : s.res = { Results.zero with status := status })
    (h : inCall s.fsm = true ∧ status = .ok ∨ s.fsm = .done ∧ s.cmdOp = 0) : ResultInv s where
  cleared := fun hc => by
    rcases h with ⟨-, rfl⟩ | ⟨hd, -⟩
    · rw [hres]
      rfl
    · simp [hd, inCall] at hc
  noPos := fun _ _ => by
    rw [hres]
    rfl
  range := by
    rw [hres]
    exact (by decide : -155 ≤ (0 : Word16).toInt ∧ (0 : Word16).toInt ≤ 100)
  outcomes := fun hd h1 => by
    rcases h with ⟨hc, -⟩ | ⟨-, h0⟩
    · simp [hd, inCall] at hc
    · exact absurd (h0.symm.trans h1) (by decide)

/-- The dispatch of a good frame: a position only from a report in answer to QUERY, MaxRetriesExceededError only in answer to MOVE (R202, R214, R247). -/
theorem resultInv_of_dispatch {s t : State} (hd : DispatchRow s t) (hf : s.fsm = .await) (h : ResultInv s) :
    ResultInv t := by
  have hc : inCall s.fsm = true := by rw [hf]; rfl
  have h01 : (0 : BitVec 1) ≠ 1 := by decide
  cases hd
  case nackRetry => exact h.goes_on hc rfl rfl
  case nackLast hop _ _ => exact h.ends hc rfl rfl fun h1 => absurd (hop.symm.trans h1) h01
  case report hop _ _ =>
    obtain ⟨-, hrange⟩ := positionResult s.rx.payload[2]
    refine ⟨by simp [inCall], fun _ hno => ?_, hrange, by simp⟩
    rcases hno with hne | h0
    · exact absurd rfl hne
    · exact absurd (h0.symm.trans hop) h01
  all_goals exact h.ends hc rfl rfl (by simp)

/-- Every row of the table keeps the results as the outcome table says (R220). -/
theorem ResultInv.transition {s t : State} (h : ResultInv s) (hr : Transition s t) : ResultInv t := by
  cases hr
  case setInvalid => exact resultInv_of_acceptance rfl (Or.inr ⟨rfl, rfl⟩)
  case setValid => exact resultInv_of_acceptance (status := .ok) rfl (Or.inl ⟨rfl, rfl⟩)
  case getAccepted => exact resultInv_of_acceptance (status := .ok) rfl (Or.inl ⟨rfl, rfl⟩)
  case bodyByteTaken => exact ⟨h.cleared, h.noPos, h.range, h.outcomes⟩
  case checksumByteTaken => exact ⟨h.cleared, h.noPos, h.range, h.outcomes⟩
  case writeComplete hf _ _ _ => exact h.goes_on (by rw [hf]; rfl) rfl rfl
  case byteRead hu =>
    rw [receiveByte_more_frame hu]
    exact ⟨h.cleared, h.noPos, h.range, h.outcomes⟩
  case badChecksum hf _ _ _ _ hu _ =>
    subst hu
    exact h.ends (by rw [hf]; rfl) rfl rfl (by simp)
  case frameGood hf _ _ _ _ hu _ hd =>
    subst hu
    exact resultInv_of_dispatch hd hf ⟨h.cleared, h.noPos, h.range, h.outcomes⟩
  case resultTaken => exact ⟨by simp [inCall], by simp, h.range, by simp⟩
  case stays => exact h
  case writeFailure hf _ => exact h.ends (by rw [hf]; rfl) rfl rfl (by simp)
  case readFailure hf _ => exact h.ends (by rw [hf]; rfl) rfl rfl (by simp)
  case badLength hf _ _ _ _ => exact h.ends (by rw [hf]; rfl) rfl rfl (by simp)

/-- After reset the results are clear (R34, R44). -/
theorem resultInv_of_idle {s : State} (hf : s.fsm = .idle) (hres : s.res = Results.zero) : ResultInv s where
  cleared := by simp [hf, inCall]
  noPos := by simp [hf]
  range := by
    rw [hres]
    decide
  outcomes := by simp [hf]

/-- Settles O55: `step_keeps`, with `ResultInv.transition` for the rows of the table. -/
theorem resultsKept : Obligations.ResultsKept := by
  intro s t hs h
  refine step_keeps (P := ResultInv) (fun s hs hf => hs.goes_on (by rw [hf]; rfl) rfl rfl)
    (fun s a hs hf _ => hs.goes_on (by rw [hf]; rfl) rfl rfl)
    (fun cfg s => resultInv_of_idle rfl rfl) (fun b s hs => ?_)
    (fun s t hs => hs.transition) (fun s hs => ⟨hs.cleared, hs.noPos, hs.range, hs.outcomes⟩) hs h
  exact ⟨by simpa using hs.cleared, by simpa using hs.noPos, by simpa using hs.range, by simpa using hs.outcomes⟩

/-! ### Power-on (R44) -/

/-- Settles O56: power-on is IDLE with the spacing armed and the results clear, and no call, transmission or DECODE going on. -/
theorem invariantsAtPowerOn : Obligations.InvariantsAtPowerOn := fun env =>
  ⟨controlInv_of_rest (Nat.le_refl _) (Nat.zero_le _) (fun _ => rfl) (Or.inl rfl),
    sumInv_of_rest (by simp [State.reset]) (by simp [State.reset]),
    callFrameInv_of_not_inCall rfl, resultInv_of_idle rfl rfl⟩

/-- Settles O40: `State.reset` field by field, and the ports of IDLE (`outputs_of_idle`). -/
theorem powerOnState : Obligations.PowerOnState := by
  obtain ⟨hcmd, hres, htx, hrx⟩ := outputs_of_idle (s := State.reset) rfl
  exact ⟨rfl, rfl, rfl, rfl, rfl, rfl, rfl, rfl, rfl, rfl, rfl, rfl, hcmd, hres, htx, hrx⟩

/-! ### Within the ranges the core never stops, outside it stops by name (U11, log 14) -/

/-- With TX_IDX within the frame XMIT always has a next state (R136). -/
theorem sendByte_next {id : Byte} {f : Message} {s : State}
    (h : s.txIdx.val ≤ hdrLen + 1 + f.payload.length) : ∃ t, sendByte id f s = .next t := by
  cases he : s.input.txErr
  case true => exact ⟨_, sendByte_failure id f he⟩
  cases hr : s.input.txReady
  case false => exact ⟨s, by simp [sendByte, he, hr]⟩
  have hw : ∃ w, wireByte id f s.txSum s.txIdx = some w := by
    rcases Nat.lt_trichotomy s.txIdx.val (hdrLen + f.payload.length) with hi | hi | hi
    · exact ⟨_, wireByte_body id f _ (by simpa using hi)⟩
    · exact ⟨_, hi ▸ wireByte_high id f _⟩
    · rw [show s.txIdx.val = hdrLen + 1 + f.payload.length by omega]
      exact ⟨_, wireByte_low id f _⟩
  obtain ⟨w, hw⟩ := hw
  exact ⟨_, sendByte_taken he hr hw⟩

/-- DECODE stops only beyond the frame (R141 to R144). -/
theorem receiveByte_stop {b : Byte} {s : State} {r : Fault} (h : receiveByte b s = .stop r) :
    hdrLen + 1 + s.rx.pcount.val < s.rxIdx.val := by
  rcases receiveByte_cases b s with ⟨-, hc⟩ | ⟨-, hc⟩ | ⟨-, -, hc⟩ | ⟨-, hc⟩ | ⟨-, hc⟩ | ⟨hi, -⟩
  case inr.inl =>
    rcases checkLength_cases (headerByte b s) with ⟨-, hk⟩ | ⟨-, hk⟩ <;> rw [hc, hk] at h <;> cases h
  case inr.inr.inr.inr.inl =>
    rcases compareChecksum_cases (checksumLow b s) with ⟨-, hk⟩ | ⟨-, hk⟩ <;> rw [hc, hk] at h <;> cases h
  case inr.inr.inr.inr.inr => exact hi
  all_goals
    rw [hc] at h
    cases h

/-- Beyond the frame DECODE stops (R141 to R144, log 14). -/
theorem receiveByte_beyond (b : Byte) {s : State} (h : hdrLen + 1 + s.rx.pcount.val < s.rxIdx.val) :
    receiveByte b s = .stop .rxIndexBeyondFrame := by
  have h9 := hdrLen_eq
  rw [receiveByte, if_neg (by omega), if_neg (by omega), if_neg (by omega), if_neg (by omega),
    if_neg (by omega)]

/-- In AWAIT a delivered byte goes to DECODE (R141, R199). -/
theorem awaitEvent_byte {s : State} (he : s.input.rxErr = false) (hv : s.input.rxValid = true) :
    awaitEvent s = afterByte (receiveByte s.input.rxData s) := by
  simp [awaitEvent, he, hv]

/-- The response dispatch always has a next state (R200 to R214). -/
theorem dispatchResponse_next {s : State} (hf : s.fsm = .await) : ∃ t, dispatchResponse s = .next t := by
  rcases dispatchResponse_cases hf with ⟨-, -, he⟩ | ⟨-, -, he⟩ | ⟨-, -, he⟩ | ⟨-, -, he⟩ <;>
    exact ⟨_, he⟩

/-- With RX_IDX within the frame AWAIT always has a next state (R141 to R145). -/
theorem awaitEvent_next {s : State} (hf : s.fsm = .await) (h : RxInRange s.rx s.rxIdx) :
    ∃ t, awaitEvent s = .next t := by
  cases he : s.input.rxErr
  case true => exact ⟨_, if_pos he⟩
  cases hv : s.input.rxValid
  case false => exact ⟨s, by simp [awaitEvent, he, hv]⟩
  rw [awaitEvent_byte he hv]
  cases hu : receiveByte s.input.rxData s with
  | more u => exact ⟨u, rfl⟩
  | ended u => exact ⟨u, rfl⟩
  | frameIn u =>
    obtain ⟨-, rfl, -⟩ := receiveByte_frameIn hu
    exact dispatchResponse_next (by simpa using hf)
  | stop r =>
    have hbeyond := receiveByte_stop hu
    rcases h with hheader | ⟨-, -, hframe⟩ <;> omega

/-- In IDLE a host command always has a next state (R192, R210). -/
theorem exec_hostCmd_next (op : BitVec 1) (pos : Word16) {s : State} (hf : s.fsm = .idle) :
    ∃ t, exec (decodeHostCmd op pos) s = .next t := by
  rcases BitVec.eq_zero_or_eq_one op with rfl | rfl
  · by_cases hp : 0 ≤ pos.toInt ∧ pos.toInt ≤ 100
    · exact ⟨_, exec_setPosition_legal hf hp.1 hp.2⟩
    · exact ⟨_, exec_setPosition_illegal hf (by omega)⟩
  · exact ⟨_, exec_getPosition hf⟩

/-- Within the ranges the event of a port always has a next state (R220). -/
theorem portEvent_next {s : State} (h : ControlInv s) : ∃ t, portEvent s = .next t := by
  cases hf : s.fsm <;> simp only [portEvent, hf]
  case idle =>
    split
    · exact exec_hostCmd_next _ _ hf
    · exact ⟨s, rfl⟩
  case xmit =>
    rw [transmitEvent_eq hf]
    exact sendByte_next (by simpa using h.txIndex hf)
  case await => exact awaitEvent_next hf (h.rxIndex hf)
  case done => exact ⟨_, (apply_ite _ _ _ _).symm⟩
  all_goals exact ⟨s, rfl⟩

/-- Settles O57: the timer transitions and reset always answer a next state within the ranges, and so does the event of a port (`portEvent_next`). -/
theorem neverStops : Obligations.NeverStops := by
  intro s h
  cases hd : timerDone s
  case true =>
    obtain ⟨⟨hf, -⟩ | ⟨hf, -⟩, -⟩ := (timerDone_iff s).mp hd <;> rw [step_timer hd, timerEvent, hf]
    · exact ⟨_, rfl⟩
    · obtain ⟨ha, -⟩ := h.retry hf
      exact ⟨_, dif_pos (by omega)⟩
  case false =>
    cases hr : s.input.rst
    case true => exact ⟨_, step_reset hd hr⟩
    case false =>
      obtain ⟨u, hu⟩ := portEvent_next (h.tickIf s.input.tick)
      exact ⟨dropInput u, by rw [step_event hd hr, hu, onNext_next]⟩

/-- Beyond the frame there is no byte for a ready transport (R136, log 14). -/
theorem sendByte_beyond (id : Byte) {f : Message} {s : State} (he : s.input.txErr = false)
    (hr : s.input.txReady = true) (hi : hdrLen + 1 + f.payload.length < s.txIdx.val) :
    sendByte id f s = .fault .txIndexBeyondFrame := by
  simp [sendByte, he, hr, wireByte_none id f s.txSum hi]

/-- Settles O58: `sendByte_beyond` and `receiveByte_beyond` for the indexes, `endBackoff` for a fourth attempt. -/
theorem stopsOutsideTheRanges : Obligations.StopsOutsideTheRanges := by
  refine ⟨fun s f hf he hr hi => ?_, fun s hf hrst he hv _ hi => ?_, fun s hf hc ha hl => ?_⟩
  · have hi' : hdrLen + 1 + f.payload.length < s.txIdx.val := hi
    rw [exec_move_xmit f hf, exec_query_xmit f hf]
    exact ⟨sendByte_beyond _ he hr hi', sendByte_beyond _ he hr hi'⟩
  · have hbeyond := receiveByte_beyond s.input.rxData (s := tickIf s.input.tick s) (by simpa [hdrLen_eq] using hi)
    rw [step_event (timerDone_await hf) hrst, portEvent]
    simp only [tickIf_fields, hf]
    rw [awaitEvent_byte (by simpa using he) (by simpa using hv)]
    simp only [tickIf_fields, hbeyond]
    rfl
  · rw [step_timer (timerDone_of_backoff hf hc hl), timerEvent, hf]
    exact dif_neg (by rw [ha]; decide)

end Sys2Proof.Machine

/-! PROOFS. The transmission of 40_codec.md, byte-serial: the transmit stream (R63, R74), and the frame written whole (R136, R197). -/

namespace Sys2Proof.Machine

/-! ### The transmit stream (R63, R74) -/

/-- The transport takes the byte that `tx_data` shows in XMIT (R40, R136). -/
def TakesOffered (s t : State) : Prop :=
  s.fsm = .xmit ∧ s.input.txReady = true ∧ s.input.txErr = false ∧
    ∃ w, s.outputs.txData = some w ∧ t.txOut = s.txOut ++ [w]

/-- Handing over either leaves the stream or appends the byte offered (R136, R198). -/
theorem sendByte_txOut {s t : State} (hf : s.fsm = .xmit)
    (h : sendByte s.tx.msgid s.tx.message s = .next t) : t.txOut = s.txOut ∨ TakesOffered s t := by
  rcases sendByte_cases h with ⟨-, rfl⟩ | ⟨he, hr, hi, rfl⟩ | ⟨he, hr, hi, rfl⟩ | ⟨he, hr, hi, rfl⟩ | ⟨-, -, rfl⟩
  · exact Or.inl rfl
  · exact Or.inr ⟨hf, hr, he, _, wireByte_body _ _ _ hi, rfl⟩
  · exact Or.inr ⟨hf, hr, he, _, (congrArg _ hi).trans (wireByte_high _ _ _), rfl⟩
  · exact Or.inr ⟨hf, hr, he, _, (congrArg _ hi).trans (wireByte_low _ _ _), rfl⟩
  · exact Or.inl rfl

/-- No dispatch of a response writes to the stream (R65). -/
theorem DispatchRow.txOut {s t : State} (h : DispatchRow s t) : t.txOut = s.txOut := by
  cases h <;> rfl

/-- Outside XMIT no row of the table writes to the stream (R65, R74). -/
theorem Transition.txOut {s t : State} (h : Transition s t) (hf : s.fsm ≠ .xmit) : t.txOut = s.txOut := by
  cases h
  case bodyByteTaken hx _ _ _ => exact absurd hx hf
  case checksumByteTaken hx _ _ _ => exact absurd hx hf
  case writeComplete hx _ _ _ => exact absurd hx hf
  case byteRead hu => rw [receiveByte_more_frame hu]
  case badChecksum hu _ => rw [hu]
  case frameGood hu _ hd => rw [hd.txOut, hu]
  all_goals rfl

/-- The event of a port leaves the stream or appends the byte offered (R63, R74). -/
theorem portEvent_txOut {s t : State} (h : portEvent s = .next t) : t.txOut = s.txOut ∨ TakesOffered s t := by
  by_cases hf : s.fsm = .xmit
  · simp only [portEvent, hf, transmitEvent_eq hf] at h
    exact sendByte_txOut hf h
  · exact Or.inl ((portEvent_transition h).txOut hf)

/-- Settles O48: the timer transitions and reset keep the stream, and of the events `portEvent_txOut` says what they append. -/
theorem transmitStreamOnlyGrows : Obligations.TransmitStreamOnlyGrows := by
  intro s t h
  rcases step_cases h with ⟨-, -, -, rfl⟩ | ⟨-, -, -, _, rfl⟩ | ⟨-, -, rfl⟩ | ⟨-, hrst, u, hu, rfl⟩
  · exact Or.inl rfl
  · exact Or.inl rfl
  · exact Or.inl rfl
  · refine (portEvent_txOut hu).imp (by simp) fun ⟨hf, hr, he, w, hw, hout⟩ => ?_
    refine ⟨by simpa using hf, hrst, by simpa using hr, by simpa using he, w, ?_, by simpa using hout⟩
    simpa [State.outputs] using hw

/-! ### A frame written whole (R136, R197) -/

/-- The wire bytes of the frame in the transmit registers (R100, R135). -/
def TxFrame.wire (r : TxFrame) : List Byte := wireImage r.msgid r.message

/-- The frame in the transmit registers is `11 + TX_PCOUNT` bytes on the wire (R91). -/
theorem txWire_length (r : TxFrame) : r.wire.length = 11 + r.pcount.val := by
  rw [TxFrame.wire, wireImage_length, txMessage_payload_length, overhead_eq]

/-- ENCODE of the transmit registers is their wire image: the payload buffer holds at most 20 bytes (R27, R135). -/
theorem encodeFrame_txFrame (r : TxFrame) :
    encodeFrame r.msgid r.ack r.node r.src r.dst (r.payload.toList.take r.pcount) = .ok r.wire :=
  encodeFrame_of_le _ _ _ _ _ (by simp)

/-- With TX_SUM the checksum of the bytes before, the wire byte at an index of the frame is that of the wire image (R136). -/
theorem wireByte_eq_wireImage (id : Byte) (f : Message) {i : Nat} (hi : i < (wireImage id f).length) :
    wireByte id f (checksum ((bodyBytes id f).take i)) i = some (wireImage id f)[i] := by
  have hlen := bodyBytes_length id f
  have hall : hdrLen + f.payload.length ≤ i → (bodyBytes id f).take i = bodyBytes id f := fun hge =>
    List.take_of_length_le (by omega)
  rw [wireImage_length, overhead_eq] at hi
  have h9 := hdrLen_eq
  rcases Nat.lt_trichotomy i (hdrLen + f.payload.length) with hlt | rfl | hgt
  · rw [wireByte_body id f _ (by omega)]
    simp only [wireImage]
    rw [List.getElem_append_left]
  · rw [hall (Nat.le_refl _), wireByte_high]
    simp [wireImage]
  · obtain rfl : i = hdrLen + 1 + f.payload.length := by omega
    rw [hall (by omega), wireByte_low]
    simp only [wireImage]
    rw [List.getElem_append_right (by omega)]
    simp [hlen, show hdrLen + 1 + f.payload.length - (hdrLen + f.payload.length) = 1 by omega]

/-- The first `i` bytes of the frame are on the stream, after what stood there before (R136). -/
structure FrameSent (out : List Byte) (i : Nat) (s : State) : Prop where
  fsm    : s.fsm = .xmit
  index  : s.txIdx.val = i
  sums   : SumInv s
  stream : s.txOut = out ++ s.tx.wire.take i

/-- A transmission starts with nothing sent (R196). -/
theorem frameSent_zero {s : State} (hf : s.fsm = .xmit) (hi : s.txIdx = 0) (hsum : s.txSum = 0) :
    FrameSent s.txOut 0 s where
  fsm := hf
  index := by simp [hi]
  sums := ⟨fun _ => by rw [hsum, hi]; rfl, by simp [hf]⟩
  stream := by simp

/-- What a transmission leaves alone, beside the registers of ENCODE and of the scheduler (R79, R136). -/
def KeptInTransmission (s t : State) : Prop :=
  t.tx = s.tx ∧ t.motorAddr = s.motorAddr ∧ t.attempt = s.attempt ∧ t.cmdOp = s.cmdOp ∧ t.res = s.res

theorem KeptInTransmission.trans {s t u : State} (h : KeptInTransmission s t) (h' : KeptInTransmission t u) :
    KeptInTransmission s u := by
  obtain ⟨htx, hmotor, hattempt, hop, hres⟩ := h
  obtain ⟨htx', hmotor', hattempt', hop', hres'⟩ := h'
  exact ⟨htx'.trans htx, hmotor'.trans hmotor, hattempt'.trans hattempt, hop'.trans hop, hres'.trans hres⟩

/-- A moment whose transport takes a byte: no reset, no failure, `tx_ready` high (R41, R63). -/
def Inputs.takes (e : Inputs) : Prop := e.rst = false ∧ e.txErr = false ∧ e.txReady = true

/-- In XMIT a ready transport takes the next byte of the wire image after its Tick; the last one completes the write (R136, R170, R197). -/
theorem FrameSent.handsOver {out : List Byte} {i : Nat} {s : State} {e : Inputs} {es : List Inputs}
    (h : FrameSent out i s) (henv : s.env = e :: es) (he : e.takes) (hi : i < s.tx.wire.length) :
    step s = .next (dropInput (if i = hdrLen + 1 + s.tx.pcount.val then
      completeWrite (byteTaken s.tx.message s.tx.wire[i] (tickIf e.tick s))
      else byteTaken s.tx.message s.tx.wire[i] (tickIf e.tick s))) := by
  obtain ⟨hrst, herr, hready⟩ := he
  have hin : s.input = e := by simp [State.input, henv]
  have hw : wireByte s.tx.msgid s.tx.message s.txSum s.txIdx = some s.tx.wire[i] := by
    rw [h.sums.txSum h.fsm, h.index]
    exact wireByte_eq_wireImage _ _ hi
  have hfsm : (tickIf e.tick s).fsm = .xmit := by simp [h.fsm]
  rw [step_event (timerDone_xmit h.fsm) (by rw [hin, hrst]), hin, portEvent, hfsm]
  simp only [transmitEvent_eq hfsm, tickIf_fields]
  rw [sendByte_taken (w := s.tx.wire[i]) (by simp [hin, herr]) (by simp [hin, hready]) (by simpa using hw)]
  simp [h.index]

/-- One byte more is on the stream, and the transmission goes on (R136). -/
theorem FrameSent.succ {out : List Byte} {i : Nat} {s : State} {e : Inputs} {es : List Inputs}
    (h : FrameSent out i s) (henv : s.env = e :: es) (he : e.takes) (hi : i < hdrLen + 1 + s.tx.pcount.val) :
    ∃ t, step s = .next t ∧ FrameSent out (i + 1) t ∧ KeptInTransmission s t ∧ t.env = es := by
  have hlen := txWire_length s.tx
  have hp := s.tx.pcount.isLt
  have hidx := h.index
  rw [hdrLen_eq] at hi
  have hlt : i < s.tx.wire.length := by omega
  have hstep := h.handsOver henv he hlt
  rw [if_neg (by rw [hdrLen_eq]; omega)] at hstep
  refine ⟨_, hstep, ⟨by simp [h.fsm], ?_, h.sums.step hstep, ?_⟩, by simp [KeptInTransmission], by simp [henv]⟩
  · simp only [dropInput_fields, byteTaken_fields, tickIf_fields]
    rw [index_succ _ (by omega), hidx]
  · simp only [dropInput_fields, byteTaken_fields, tickIf_fields]
    rw [h.stream, List.take_succ_eq_append_getElem hlt, List.append_assoc]

/-- The state a write leaves that has been completed: the spacing armed, DECODE begun in AWAIT (R197). -/
structure WriteCompleted (s t : State) : Prop where
  fsm    : t.fsm = .await
  armed  : t.spaceCnt = nSpace
  decode : t.rxIdx = 0 ∧ t.rxSum = 0 ∧ t.rxCk = 0
  kept   : KeptInTransmission s t

/-- The last byte puts the whole wire image on the stream and completes the write (R197). -/
theorem FrameSent.last {out : List Byte} {s : State} {e : Inputs} {es : List Inputs}
    (h : FrameSent out (hdrLen + 1 + s.tx.pcount.val) s) (henv : s.env = e :: es) (he : e.takes) :
    ∃ t, step s = .next t ∧ t.txOut = out ++ s.tx.wire ∧ WriteCompleted s t ∧ t.env = es := by
  have hlen := txWire_length s.tx
  have hlt : hdrLen + 1 + s.tx.pcount.val < s.tx.wire.length := by rw [hdrLen_eq]; omega
  have hstep := h.handsOver henv he hlt
  rw [if_pos rfl] at hstep
  refine ⟨_, hstep, ?_, ⟨rfl, rfl, ⟨rfl, rfl, rfl⟩, by simp [KeptInTransmission]⟩, by simp [henv]⟩
  simp only [dropInput_fields, completeWrite_fields, byteTaken_fields, tickIf_fields]
  rw [h.stream, List.append_assoc, ← List.take_succ_eq_append_getElem hlt,
    List.take_of_length_le (by rw [hlen, hdrLen_eq]; omega)]

/-- The rest of the frame, taken byte by byte, completes the write (R136, R197). -/
theorem runFor_transmission {out : List Byte} (es rest : List Inputs) :
    ∀ {i : Nat} {s : State}, FrameSent out i s → s.env = es ++ rest → i ≤ hdrLen + 1 + s.tx.pcount.val →
      i + es.length = hdrLen + 2 + s.tx.pcount.val → (∀ e ∈ es, e.takes) →
      ∃ t, runFor es.length s = .next t ∧ t.txOut = out ++ s.tx.wire ∧ WriteCompleted s t ∧ t.env = rest := by
  induction es with
  | nil =>
    intro i s _ _ hi hlen
    simp at hlen
    omega
  | cons e es ih =>
    intro i s h henv hi hlen htakes
    obtain ⟨he, htakes⟩ := List.forall_mem_cons.mp htakes
    rw [List.length_cons] at hlen ⊢
    rcases Nat.lt_or_eq_of_le hi with hlt | rfl
    · obtain ⟨u, hstep, hu, hkept, henvu⟩ := h.succ henv he hlt
      have htx : u.tx = s.tx := hkept.1
      obtain ⟨t, hrun, hout, ht, henvt⟩ := ih hu henvu (by rw [htx]; omega) (by rw [htx]; omega) htakes
      exact ⟨t, (runFor_succ_of_step hstep).trans hrun, by rw [hout, htx],
        { ht with kept := hkept.trans ht.kept }, henvt⟩
    · obtain rfl : es = [] := List.eq_nil_of_length_eq_zero (by omega)
      obtain ⟨t, hstep, hlast⟩ := h.last henv he
      exact ⟨t, (runFor_one s).trans hstep, hlast⟩

/-- Settles O49: nothing is sent at the start (`frameSent_zero`), every moment takes one byte of the wire image (`runFor_transmission`), and that is what ENCODE gives (`encodeFrame_txFrame`). -/
theorem transmissionWritesEncodedFrame : Obligations.TransmissionWritesEncodedFrame := by
  intro s es rest hf hi hsum henv hlen htakes
  obtain ⟨t, hrun, hout, ht, henvt⟩ := runFor_transmission es rest (frameSent_zero hf hi hsum) henv
    (Nat.zero_le _) (by rw [hdrLen_eq]; omega) htakes
  obtain ⟨hridx, hrsum, hrck⟩ := ht.decode
  obtain ⟨htx, hmotor, hattempt, hop, hres⟩ := ht.kept
  exact ⟨_, t, encodeFrame_txFrame s.tx, hlen ▸ hrun, hout, ht.fsm, ht.armed, henvt, hridx, hrsum, hrck,
    htx, hmotor, hattempt, hop, hres⟩

end Sys2Proof.Machine

/-! PROOFS. Whole calls of 42_engine.md: how a step moves a call, the bound on its attempts (R207), and its end within the bound of the model (R225, log 2). -/

namespace Sys2Proof.Machine

/-! ### How a step moves a call (R220) -/

/-- What a step within a call does to FSM and ATTEMPT: it stays, goes on, retries, or leaves the call (R196 to R207, R255). -/
inductive CallMove : Fsm → Fin 3 → Fsm → Fin 3 → Prop where
  | stays (q : Fsm) (a : Fin 3) : CallMove q a q a
  | started (a : Fin 3) : CallMove .space a .xmit a
  | written (a : Fin 3) : CallMove .xmit a .await a
  | refused (a : Fin 3) (h : a.val < 2) : CallMove .await a .backoff a
  | retried (a b : Fin 3) (h : b.val = a.val + 1) : CallMove .backoff a .space b
  | left (q r : Fsm) (a b : Fin 3) (h : inCall r = false) : CallMove q a r b

/-- The dispatch of a good frame retries or ends the call (R202, R258). -/
theorem DispatchRow.callMove {s t : State} (h : DispatchRow s t) (hf : s.fsm = .await) :
    CallMove s.fsm s.attempt t.fsm t.attempt := by
  rw [hf]
  cases h
  case nackRetry ha => exact .refused _ ha
  all_goals exact .left _ _ _ _ rfl

/-- The rows of the table within a call (R220). -/
theorem Transition.callMove {s t : State} (h : Transition s t) (hc : inCall s.fsm = true) :
    CallMove s.fsm s.attempt t.fsm t.attempt := by
  cases h
  case setValid hf _ _ _ _ _ => simp [hf, inCall] at hc
  case getAccepted hf _ _ _ _ => simp [hf, inCall] at hc
  case bodyByteTaken => exact .stays _ _
  case checksumByteTaken => exact .stays _ _
  case writeComplete hf _ _ _ =>
    rw [hf]
    exact .written _
  case byteRead hu =>
    rw [receiveByte_more_frame hu]
    exact .stays _ _
  case frameGood hf _ _ _ _ hu _ hd =>
    subst hu
    exact hd.callMove hf
  case stays => exact .stays _ _
  all_goals exact .left _ _ _ _ rfl

/-- Every step within a call moves it so: a reset leaves it, a timer starts a transmission or the next attempt (R196, R204, R255). -/
theorem step_callMove {s t : State} (h : step s = .next t) (hc : inCall s.fsm = true) :
    CallMove s.fsm s.attempt t.fsm t.attempt := by
  rcases step_cases h with ⟨hf, -, -, rfl⟩ | ⟨hf, -, -, _, rfl⟩ | ⟨-, -, rfl⟩ | ⟨-, -, u, hu, rfl⟩
  · rw [hf]
    exact .started _
  · rw [hf]
    exact .retried _ _ rfl
  · exact .left _ _ _ _ rfl
  · simpa using (portEvent_transition hu).callMove (by simpa using hc)

/-! ### At most three attempts (R207) -/

/-- The writes that can still be completed in a call: one an attempt, but for the attempt whose write is behind it. -/
def writesLeft (q : Fsm) (a : Fin 3) : Nat :=
  match q with
  | .space | .xmit => 3 - a
  | .await | .backoff => 2 - a
  | .idle | .done => 0

/-- The responses that can still be read to their end in a call: one an attempt, but for the attempt that was refused. -/
def responsesLeft (q : Fsm) (a : Fin 3) : Nat :=
  match q with
  | .space | .xmit | .await => 3 - a
  | .backoff => 2 - a
  | .idle | .done => 0

/-- The backoffs that can still begin in a call: none after the last attempt. -/
def backoffsLeft (q : Fsm) (a : Fin 3) : Nat :=
  match q with
  | .space | .xmit | .await => 2 - a
  | .backoff => 1 - a
  | .idle | .done => 0

/-- A number that every step of a kind within a call lowers and no step within a call raises bounds the steps of that kind in the call. -/
theorem countSteps_le {p : State → State → Bool} {left : Fsm → Fin 3 → Nat}
    (hstep : ∀ s t, CallMove s.fsm s.attempt t.fsm t.attempt →
      (if p s t then 1 else 0) + left t.fsm t.attempt ≤ left s.fsm s.attempt)
    (k : Nat) (s : State) (hall : allAlong (fun u => inCall u.fsm) k s = true) :
    countSteps p k s ≤ left s.fsm s.attempt := by
  induction k generalizing s with
  | zero => exact Nat.zero_le _
  | succ k ih =>
    cases hs : step s with
    | next t =>
      simp only [allAlong, hs, Bool.and_eq_true] at hall
      obtain ⟨hc, hall⟩ := hall
      have hcount : countSteps p (k + 1) s = (if p s t then 1 else 0) + countSteps p k t := by
        simp [countSteps, hs]
      have := ih t hall
      have := hstep s t (step_callMove hs hc)
      omega
    | fault r => simp [countSteps, hs]
    | refused r => simp [countSteps, hs]

/-- A completed write leaves one less to complete (R197). -/
theorem writesLeft_step (s t : State) (h : CallMove s.fsm s.attempt t.fsm t.attempt) :
    (if completesWrite s t then 1 else 0) + writesLeft t.fsm t.attempt ≤ writesLeft s.fsm s.attempt := by
  unfold completesWrite
  generalize s.fsm = q, s.attempt = a, t.fsm = r, t.attempt = b at h
  have ha := a.isLt
  cases h with
  | stays => cases q <;> simp [writesLeft]
  | left _ _ _ _ hr => cases r <;> simp_all [inCall, writesLeft]
  | started => simp [writesLeft]
  | written => simp [writesLeft]; omega
  | refused => simp [writesLeft]
  | retried _ _ hb => simp [writesLeft]; omega

/-- A response read to its end leaves one less to read (R199 to R214). -/
theorem responsesLeft_step (s t : State) (h : CallMove s.fsm s.attempt t.fsm t.attempt) :
    (if endsResponse s t then 1 else 0) + responsesLeft t.fsm t.attempt ≤ responsesLeft s.fsm s.attempt := by
  unfold endsResponse
  generalize s.fsm = q, s.attempt = a, t.fsm = r, t.attempt = b at h
  have ha := a.isLt
  cases h with
  | stays => cases q <;> simp [responsesLeft]
  | left _ _ _ _ hr =>
    have hnone : responsesLeft r b = 0 := by cases r <;> simp_all [inCall, responsesLeft]
    rw [hnone]
    by_cases hq : q = .await
    · simp only [hq, responsesLeft]
      split <;> omega
    · simp [hq]
  | started => simp [responsesLeft]
  | written => simp [responsesLeft]
  | refused => simp [responsesLeft]; omega
  | retried _ _ hb => simp [responsesLeft]; omega

/-- A backoff begun leaves one less to begin (R202). -/
theorem backoffsLeft_step (s t : State) (h : CallMove s.fsm s.attempt t.fsm t.attempt) :
    (if beginsBackoff s t then 1 else 0) + backoffsLeft t.fsm t.attempt ≤ backoffsLeft s.fsm s.attempt := by
  unfold beginsBackoff
  generalize s.fsm = q, s.attempt = a, t.fsm = r, t.attempt = b at h
  have ha := a.isLt
  cases h with
  | stays => cases q <;> simp [backoffsLeft]
  | left _ _ _ _ hr => cases r <;> simp_all [inCall, backoffsLeft]
  | started => simp [backoffsLeft]
  | written => simp [backoffsLeft]
  | refused _ hl => simp [backoffsLeft]; omega
  | retried _ _ hb => simp [backoffsLeft]; omega

/-- Settles O59: from SPACE with ATTEMPT 0 three writes, three responses and two backoffs are left, and each one uses one up (`countSteps_le`). -/
theorem atMostThreeTransmissions : Obligations.AtMostThreeTransmissions := by
  intro k s t hf ha _ hall
  have hwrites := countSteps_le writesLeft_step k s hall
  have hresponses := countSteps_le responsesLeft_step k s hall
  have hbackoffs := countSteps_le backoffsLeft_step k s hall
  rw [hf, ha] at hwrites hresponses hbackoffs
  exact ⟨hwrites, hresponses, hbackoffs⟩

/-! ### Every call ends (R225) -/

/-- The most steps one attempt and the backoff after it take: the spacing and the start, at most 31 bytes out and 31 in, the backoff and its end (R174, R203). -/
def attemptCost : Nat := nSpace + nBackoff + 64

/-- The steps a call still takes at most, with inputs that answer and no lag (log 2). Each wait counts down its own register, and a retry what one attempt costs. -/
def stepsLeft (s : State) : Nat :=
  match s.fsm with
  | .idle => 0
  | .space => s.spaceCnt + 63 + (2 - s.attempt.val) * attemptCost
  | .xmit => 62 - s.txIdx.val + (2 - s.attempt.val) * attemptCost
  | .await => 31 - s.rxIdx.val + (2 - s.attempt.val) * attemptCost
  | .backoff => s.backoffCnt + nSpace + 64 + (1 - s.attempt.val) * attemptCost
  | .done => 0

theorem stepsLeft_space {s : State} (h : s.fsm = .space) :
    stepsLeft s = s.spaceCnt + 63 + (2 - s.attempt.val) * attemptCost := by simp [stepsLeft, h]

theorem stepsLeft_xmit {s : State} (h : s.fsm = .xmit) :
    stepsLeft s = 62 - s.txIdx.val + (2 - s.attempt.val) * attemptCost := by simp [stepsLeft, h]

theorem stepsLeft_await {s : State} (h : s.fsm = .await) :
    stepsLeft s = 31 - s.rxIdx.val + (2 - s.attempt.val) * attemptCost := by simp [stepsLeft, h]

theorem stepsLeft_backoff {s : State} (h : s.fsm = .backoff) :
    stepsLeft s = s.backoffCnt + nSpace + 64 + (1 - s.attempt.val) * attemptCost := by simp [stepsLeft, h]

/-- With an attempt left, the attempts to come cost one more than those after it. -/
theorem attemptCost_succ {a : Nat} (h : a < 2) :
    (2 - a) * attemptCost = nSpace + nBackoff + 64 + (1 - a) * attemptCost := by
  rw [show 2 - a = (1 - a) + 1 by omega, Nat.succ_mul, Nat.add_comm]
  rfl

/-- A call has the bound of the model before it, whatever state it is in (R23, R24, R26). -/
theorem stepsLeft_le {s : State} (h : ControlInv s) : stepsLeft s ≤ callBound := by
  have hspace := h.space
  have hbackoff := h.backoff
  have hone : (1 - s.attempt.val) * attemptCost ≤ 1 * attemptCost := Nat.mul_le_mul_right _ (by omega)
  have htwo : (2 - s.attempt.val) * attemptCost ≤ 2 * attemptCost := Nat.mul_le_mul_right _ (by omega)
  have hbound : callBound = 3 * attemptCost := rfl
  have hcost : attemptCost = nSpace + nBackoff + 64 := rfl
  cases hf : s.fsm
  case idle => simp [stepsLeft, hf]
  case done => simp [stepsLeft, hf]
  case space =>
    rw [stepsLeft_space hf]
    omega
  case xmit =>
    rw [stepsLeft_xmit hf]
    omega
  case await =>
    rw [stepsLeft_await hf]
    omega
  case backoff =>
    rw [stepsLeft_backoff hf]
    omega

/-- A step takes the call forward: to its result, or to fewer steps left. -/
def Advances (s t : State) : Prop := t.fsm = .done ∨ inCall t.fsm = true ∧ stepsLeft t < stepsLeft s

/-- A good frame ends the call or, refused, costs the attempt it leads to (R202). -/
theorem DispatchRow.done_or_attemptCost {s t : State} (h : DispatchRow s t) :
    t.fsm = .done ∨ t.fsm = .backoff ∧ stepsLeft t = (2 - s.attempt.val) * attemptCost := by
  cases h
  case nackRetry ha =>
    refine Or.inr ⟨rfl, ?_⟩
    rw [stepsLeft_backoff rfl, attemptCost_succ ha]
    dsimp only
    omega
  all_goals exact Or.inl rfl

/-- A byte taken is one byte less to hand over (R136). -/
theorem advances_of_byte_taken {s t : State} (hs : s.fsm = .xmit) (ht : t.fsm = .xmit)
    (ha : t.attempt = s.attempt) (hi : t.txIdx = s.txIdx + 1) (hlt : s.txIdx.val < 31) : Advances s t := by
  refine Or.inr ⟨by rw [ht]; rfl, ?_⟩
  rw [stepsLeft_xmit ht, stepsLeft_xmit hs, ha, hi, index_succ _ hlt]
  omega

/-- A byte taken or delivered, and a failure, take the call forward (R136, R141 to R146, R197 to R199). -/
theorem Transition.advances {s t : State} (h : Transition s t) (hf : s.fsm = .xmit ∨ s.fsm = .await)
    (hn : noEvent s = false) : Advances s t := by
  have htx := s.tx.pcount.isLt
  have hrx := s.rx.pcount.isLt
  cases h
  case bodyByteTaken hx _ _ hi =>
    rw [bodyBytes_length, txMessage_payload_length, hdrLen_eq] at hi
    exact advances_of_byte_taken hx hx rfl rfl (by omega)
  case checksumByteTaken hx _ _ hi =>
    exact advances_of_byte_taken hx hx rfl rfl (by omega)
  case writeComplete hx _ _ hi =>
    refine Or.inr ⟨rfl, ?_⟩
    rw [stepsLeft_await rfl, stepsLeft_xmit hx]
    simp only [Fin.val_zero]
    omega
  case byteRead ha _ _ hu =>
    obtain ⟨hlt, hnext⟩ := rxIdx_of_more hu
    have hkept := keptInReception_of_more hu
    obtain ⟨hfsm, -, hattempt, -⟩ := hkept.fields
    refine Or.inr ⟨by rw [hfsm, ha]; rfl, ?_⟩
    rw [stepsLeft_await (hfsm.trans ha), stepsLeft_await ha, hattempt, hnext]
    omega
  case frameGood ha _ _ hi _ hu _ hd =>
    subst hu
    rcases hd.done_or_attemptCost with ht | ⟨ht, hleft⟩
    · exact Or.inl ht
    · refine Or.inr ⟨by rw [ht]; rfl, ?_⟩
      rw [hleft, stepsLeft_await ha]
      dsimp only
      omega
  case resultTaken hx _ => simp [hx] at hf
  case stays hno => simp [hn] at hno
  case setValid hx _ _ _ _ _ => simp [hx] at hf
  case getAccepted hx _ _ _ _ => simp [hx] at hf
  all_goals exact Or.inl rfl

/-- What an answering input holds (R225, R306). -/
theorem answers_iff (e : Inputs) :
    e.answers = true ↔ e.rst = false ∧ e.tick = true ∧ e.lag = false ∧
      (e.txReady = true ∨ e.txErr = true) ∧ (e.rxValid = true ∨ e.rxErr = true) := by
  simp [Inputs.answers, and_assoc]

/-- With an answering input in XMIT or AWAIT an event is at the ports (R268). -/
theorem noEvent_of_answers {s : State} (h : s.input.answers = true) (hf : s.fsm = .xmit ∨ s.fsm = .await) :
    noEvent s = false := by
  obtain ⟨-, -, -, htx, hrx⟩ := (answers_iff s.input).mp h
  rcases hf with hf | hf
  · rcases htx with h | h <;> simp [noEvent, hf, h]
  · rcases hrx with h | h <;> simp [noEvent, hf, h]

/-- The Tick of a moment in XMIT or AWAIT counts no step of the call (R170). -/
theorem stepsLeft_tickIf {s : State} (b : Bool) (hf : s.fsm = .xmit ∨ s.fsm = .await) :
    stepsLeft (tickIf b s) = stepsLeft s := by
  rcases hf with hf | hf <;> simp [stepsLeft, hf]

/-- The end of a moment's inputs is no matter of the call. -/
theorem stepsLeft_dropInput (s : State) : stepsLeft (dropInput s) = stepsLeft s := rfl

/-- An answering moment in a state that waits for a timer counts it down (R170, R203). -/
theorem advances_of_waiting {s : State} (hf : s.fsm = .space ∨ s.fsm = .backoff)
    (hd : timerDone s = false) (hlag : s.input.lag = false) : Advances s (dropInput (tickIf true s)) := by
  rcases hf with hf | hf
  · have hcnt : s.spaceCnt ≠ 0 := fun h0 => by simp [timerDone_of_space hf h0 hlag] at hd
    refine Or.inr ⟨by simp [hf, inCall], ?_⟩
    rw [stepsLeft_dropInput, stepsLeft_space (by simpa using hf), stepsLeft_space hf]
    simp
    omega
  · have hcnt : s.backoffCnt ≠ 0 := fun h0 => by simp [timerDone_of_backoff hf h0 hlag] at hd
    refine Or.inr ⟨by simp [hf, inCall], ?_⟩
    rw [stepsLeft_dropInput, stepsLeft_backoff (by simpa using hf), stepsLeft_backoff hf, tickIf_backoffCnt]
    simp [hf]
    omega

/-- The start of a transmission is one step of the spacing's wait (R196). -/
theorem startTransmission_advances {s : State} (hf : s.fsm = .space) : Advances s (startTransmission s) := by
  refine Or.inr ⟨rfl, ?_⟩
  rw [stepsLeft_xmit rfl, stepsLeft_space hf]
  simp only [startTransmission_fields, Fin.val_zero]
  omega

/-- The end of a backoff leaves the attempt it begins (R204). -/
theorem retry_advances {s : State} (h : ControlInv s) (hf : s.fsm = .backoff) {a : Fin 3}
    (ha : a.val = s.attempt.val + 1) : Advances s { s with attempt := a, fsm := .space } := by
  have hspace := h.space
  refine Or.inr ⟨rfl, ?_⟩
  rw [stepsLeft_space rfl, stepsLeft_backoff hf]
  simp only [ha, show 2 - (s.attempt.val + 1) = 1 - s.attempt.val by omega]
  omega

/-- Within a call every step with an answering input takes it forward, and consumes that input or none (R225). -/
theorem step_advances {s t : State} (h : ControlInv s) (hc : inCall s.fsm = true)
    (ha : s.input.answers = true) (hs : step s = .next t) :
    Advances s t ∧ (t.env = s.env ∨ t.env = s.env.tail) := by
  obtain ⟨hrst, htick, hlag, -⟩ := (answers_iff s.input).mp ha
  rcases step_cases hs with ⟨hf, -, -, rfl⟩ | ⟨hf, -, -, hlt, rfl⟩ | ⟨-, hr, -⟩ | ⟨hd, -, u, hu, rfl⟩
  · exact ⟨startTransmission_advances hf, Or.inl rfl⟩
  · exact ⟨retry_advances h hf rfl, Or.inl rfl⟩
  · exact absurd (hrst.symm.trans hr) (by decide)
  · have henv : u.env = s.env := by simpa using (portEvent_transition hu).env
    refine ⟨?_, Or.inr (by simp [henv])⟩
    by_cases hf : s.fsm = .xmit ∨ s.fsm = .await
    · have hadv := (portEvent_transition hu).advances (by simpa using hf)
        (noEvent_of_answers (by simpa using ha) (by simpa using hf))
      simpa [Advances, stepsLeft_tickIf _ hf, stepsLeft_dropInput] using hadv
    · have hw : s.fsm = .space ∨ s.fsm = .backoff := by
        cases hq : s.fsm <;> simp_all [inCall]
      rw [step_of_waiting hw hd hrst, htick] at hs
      rw [← Host.Outcome.next.inj hs]
      exact advances_of_waiting hw hd hlag

/-- Within a call there is a step left (R28, R31). -/
theorem stepsLeft_pos {s : State} (h : ControlInv s) (hc : inCall s.fsm = true) : 0 < stepsLeft s := by
  cases hf : s.fsm
  case idle => simp [hf, inCall] at hc
  case done => simp [hf, inCall] at hc
  case space =>
    rw [stepsLeft_space hf]
    omega
  case xmit =>
    have hi := s.txIdx.isLt
    rw [stepsLeft_xmit hf]
    omega
  case await =>
    have hp := s.rx.pcount.isLt
    have h9 := hdrLen_eq
    have hi : s.rxIdx.val < 31 := by
      rcases h.rxIndex hf with hi | ⟨-, -, hi⟩ <;> omega
    rw [stepsLeft_await hf]
    omega
  case backoff =>
    rw [stepsLeft_backoff hf]
    omega

/-- Of `n + 1` answering inputs to come a step leaves `n`, consumed or not. -/
theorem answers_after_step {n : Nat} {env rest : List Inputs} (hlen : n + 1 ≤ env.length)
    (hans : ∀ e ∈ env.take (n + 1), e.answers = true) (h : rest = env ∨ rest = env.tail) :
    n ≤ rest.length ∧ ∀ e ∈ rest.take n, e.answers = true := by
  rcases h with rfl | rfl
  · exact ⟨by omega, fun e he => hans e ((List.take_sublist_take_left n.le_succ).subset he)⟩
  · refine ⟨by rw [List.length_tail]; omega, fun e he => hans e (List.mem_of_mem_tail ?_)⟩
    rw [List.tail_take_eq_take_tail]
    exact he

/-- A call with at most `n` steps left and `n` answering inputs ends within `n` steps: the next one takes it forward (`step_advances`). -/
theorem call_ends (n : Nat) (s : State) (h : ControlInv s) (hc : inCall s.fsm = true) (hle : stepsLeft s ≤ n)
    (hlen : n ≤ s.env.length) (hans : ∀ e ∈ s.env.take n, e.answers = true) :
    ∃ k t, k ≤ n ∧ runFor k s = .next t ∧ t.fsm = .done := by
  induction n generalizing s with
  | zero =>
    have hpos := stepsLeft_pos h hc
    omega
  | succ n ih =>
    obtain ⟨e, es, henv⟩ := List.exists_cons_of_length_pos (Nat.lt_of_lt_of_le n.succ_pos hlen)
    have hin : s.input = e := by simp [State.input, henv]
    have he : e.answers = true := hans e (by simp [henv])
    obtain ⟨t, hs⟩ := neverStops s h
    obtain ⟨hadv, henvt⟩ := step_advances h hc (hin ▸ he) hs
    rcases hadv with hdone | ⟨hct, hlt⟩
    · exact ⟨1, t, by omega, (runFor_one s).trans hs, hdone⟩
    · obtain ⟨hlent, hanst⟩ := answers_after_step hlen hans henvt
      obtain ⟨k, u, hk, hrun, hu⟩ := ih t (controlInvKept s t h hs) hct (by omega) hlent hanst
      exact ⟨k + 1, u, by omega, (runFor_succ_of_step hs).trans hrun, hu⟩

/-- Settles O60: a call has at most `callBound` steps before it (`stepsLeft_le`), and answering inputs bring it to its end (`call_ends`). -/
theorem everyCallEnds : Obligations.EveryCallEnds :=
  fun s h hc hlen hans => call_ends callBound s h hc (stepsLeft_le h) hlen hans

end Sys2Proof.Machine

/-! PROOFS. The instructions and moments of 42_engine.md and 60_exceptions.md that no earlier part settles: what a message means in each state (R109, R115, log 12, log 13), the waits (R268), the read failure (R199), the free delays (R306), and which instruction a step runs (log 10). -/

namespace Sys2Proof.Machine

/-! ### A message in each state (R109, R115, log 12, log 13) -/

/-- The transmit registers with a message written to them, one by one (R27). -/
theorem issueMessage_eq (id : Byte) {f : Message} (s : State) (h : f.payload.length ≤ 20) :
    issueMessage id f s = { s with
      tx := ⟨id, f.comb.getLsbD 7, ⟨f.payload.length, by omega⟩, f.node, f.src, f.dst,
        overwrite s.tx.payload f.payload⟩
      fsm := .space } := issueMessage_of_le id f s h

/-- In IDLE both messages of the core are built (R115). -/
theorem exec_move_idle {s : State} (f : Message) (hf : s.fsm = .idle) :
    exec (.move f) s = .next (issueMessage idMove f s) := by
  simp [exec, execMove, hf]

theorem exec_query_idle {s : State} (f : Message) (hf : s.fsm = .idle) :
    exec (.query f) s = .next (issueMessage idQuery f s) := by
  simp [exec, execQuery, hf]

/-- Settles O17: `issueMessage` of a payload that fits (`issueMessage_eq`, `overwrite_getElem`) and of one that does not (`issueMessage_of_gt`). -/
theorem moveAndQueryBuildInIdle : Obligations.MoveAndQueryBuildInIdle := by
  intro s f hf
  rw [exec_move_idle f hf, exec_query_idle f hf]
  refine ⟨fun h => ⟨overwrite s.tx.payload f.payload, fun k => overwrite_getElem _ _ k.isLt, ?_, ?_⟩, fun h => ?_⟩
  · rw [issueMessage_eq idMove s h]
    rfl
  · rw [issueMessage_eq idQuery s h]
    rfl
  · rw [issueMessage_of_gt idMove f s h, issueMessage_of_gt idQuery f s h]
    exact ⟨rfl, rfl⟩

/-- Settles O24: in AWAIT each instruction tests CMD_OP alone, and the wrong command is `unexpectedMessage`. -/
theorem wrongAnswersAreProtocolErrors : Obligations.WrongAnswersAreProtocolErrors := by
  intro s f hf
  have hop : s.cmdOp = 0 → s.cmdOp ≠ 1 := fun h0 h1 => absurd (h0.symm.trans h1) (by decide)
  refine ⟨fun hc => ?_, fun hc => ?_, fun hc => ?_, ?_, ?_⟩
  · simp only [exec, execAck, hf, if_neg (imp_not_comm.mp hop hc)]
    rfl
  · simp only [exec, execNack, hf, if_neg (imp_not_comm.mp hop hc)]
    rfl
  · simp only [exec, execPosreport, hf, if_neg (hop hc)]
    rfl
  · simp only [exec, execMove, hf]
    rfl
  · simp only [exec, execQuery, hf]
    rfl

/-- Settles O25: by the state, each meaning leaves it as it is. -/
theorem messagesElsewhereChangeNothing : Obligations.MessagesElsewhereChangeNothing := by
  intro s f
  refine ⟨fun hf i hi => ?_, fun hf i hi => ?_⟩
  · simp only [List.mem_cons, List.not_mem_nil, or_false] at hi
    rcases hi with rfl | rfl | rfl | rfl | rfl <;> rcases hf with hf | hf | hf <;>
      simp only [exec, execMove, execQuery, execPosreport, execNack, execAck, hf]
  · simp only [List.mem_cons, List.not_mem_nil, or_false] at hi
    rcases hi with rfl | rfl | rfl <;> rcases hf with hf | hf <;>
      simp only [exec, execPosreport, execNack, execAck, hf]

/-! ### Moments without an answer, and the read failure (R199, R268) -/

/-- With no event of R220 at the ports the event changes nothing (R268). -/
theorem portEvent_of_noEvent {s : State} (h : noEvent s = true) : portEvent s = .next s := by
  cases hf : s.fsm <;> simp only [noEvent, hf, Bool.and_eq_true, Bool.not_eq_true'] at h <;>
    simp only [portEvent, hf]
  case idle => simp [h]
  case xmit => simp [transmitEvent_eq hf, sendByte, h]
  case await => simp [awaitEvent, h]
  case done => simp [h]

/-- A state that waits for a port, as R268 has it, has no event and no timer of its own. -/
theorem unanswered_of_waits {s : State}
    (h : (s.fsm = .xmit ∧ s.input.txErr = false ∧ s.input.txReady = false) ∨
      (s.fsm = .await ∧ s.input.rxErr = false ∧ s.input.rxValid = false) ∨
      (s.fsm = .done ∧ s.input.resReady = false) ∨ (s.fsm = .idle ∧ s.input.cmdValid = false)) :
    noEvent s = true ∧ timerDone s = false ∧ s.fsm ≠ .backoff := by
  rcases h with ⟨hf, he, hr⟩ | ⟨hf, he, hv⟩ | ⟨hf, hr⟩ | ⟨hf, hv⟩
  · simp [noEvent, hf, he, hr]
  · simp [noEvent, hf, he, hv]
  · simp [noEvent, hf, hr]
  · simp [noEvent, hf, hv]

/-- The Tick before an event is none of what a port shows (R170). -/
theorem noEvent_tickIf (b : Bool) (s : State) : noEvent (tickIf b s) = noEvent s := by
  simp [noEvent]

/-- Settles O28: none of the four waits has an event (`unanswered_of_waits`), so the moment is its Tick (`portEvent_of_noEvent`). -/
theorem unansweredCoreWaits : Obligations.UnansweredCoreWaits := by
  intro s hrst h
  obtain ⟨hn, hd, hb⟩ := unanswered_of_waits h
  rw [step_event hd hrst, portEvent_of_noEvent ((noEvent_tickIf _ s).trans hn),
    tickIf_of_no_backoff _ fun hf => absurd hf hb]
  rfl

/-- Settles O31: in AWAIT the failure is looked at before a byte (R41), after the Tick of the moment. -/
theorem readFailureEndsCall : Obligations.ReadFailureEndsCall := by
  intro s hf hrst he
  have hevent : awaitEvent (tickIf s.input.tick s) = .next (raise .transport (tickIf s.input.tick s)) :=
    if_pos (by simpa using he)
  rw [step_event (timerDone_await hf) hrst, portEvent]
  simp only [tickIf_fields, hf]
  rw [hevent, tickIf_of_no_backoff _ fun hb => by simp [hf] at hb]
  rfl

/-! ### Inputs outside their state (R252) -/

/-- Settles O44: `step_withEnv` for the other moment in the place of the first. -/
theorem otherInputsIgnored : Obligations.OtherInputsIgnored := by
  intro s e e' es henv hd hsame
  refine step_withEnv (env := e' :: es) ?_ hd (by simp [henv])
  have hin : s.input = e := by simp [State.input, henv]
  rw [hin]
  exact hsame

/-! ### The free delays (R306, R177) -/

/-- A timer that a state waits for has run out (R196, R204). -/
def TimerDue (s : State) : Prop := (s.fsm = .space ∧ s.spaceCnt = 0) ∨ (s.fsm = .backoff ∧ s.backoffCnt = 0)

/-- The state after `n` lagging moments: SPACE_CNT has fallen by their Ticks, and `rest` is to come. -/
def State.afterLag (n : Nat) (rest : List Inputs) (s : State) : State :=
  { s with spaceCnt := s.spaceCnt - n, env := rest }

theorem afterLag_zero {s : State} {rest : List Inputs} (h : s.env = rest) : s.afterLag 0 rest = s := by
  subst h
  rfl

/-- A lagging moment with its clock period: SPACE_CNT alone falls, and the transition is still due (R170, R306). -/
theorem step_of_lag {s : State} {e : Inputs} {es : List Inputs} (h : TimerDue s) (henv : s.env = e :: es)
    (hlag : e.lag = true) (htick : e.tick = true) (hrst : e.rst = false) :
    step s = .next (s.afterLag 1 es) ∧ stepTicks s = 1 := by
  have hin : s.input = e := by simp [State.input, henv]
  have hd : timerDone s = false := timerDone_lag (by rw [hin, hlag])
  have hr : s.input.rst = false := by rw [hin, hrst]
  have hno : s.fsm = .backoff → s.backoffCnt = 0 := fun hb => by
    rcases h with ⟨hf, -⟩ | ⟨-, hc⟩
    · simp [hb] at hf
    · exact hc
  refine ⟨?_, by rw [stepTicks_event hd hr, hin, htick]; rfl⟩
  rw [step_of_waiting (h.imp And.left And.left) hd hr, tickIf_of_no_backoff _ hno, hin, htick]
  simp [dropInput, State.afterLag, henv]

/-- `n` lagging moments take `n` Ticks, and the run goes on after them (R170, R306). -/
theorem run_of_lag {e : Inputs} {rest : List Inputs} (hlag : e.lag = true) (htick : e.tick = true)
    (hrst : e.rst = false) (n k : Nat) {s : State} (h : TimerDue s) (henv : s.env = List.replicate n e ++ rest) :
    runFor (n + k) s = runFor k (s.afterLag n rest) ∧
      ticksIn (n + k) s = n + ticksIn k (s.afterLag n rest) := by
  induction n generalizing s with
  | zero => simp [afterLag_zero (show s.env = rest from henv)]
  | succ n ih =>
    rw [List.replicate_succ, List.cons_append] at henv
    obtain ⟨hstep, hticks⟩ := step_of_lag h henv hlag htick hrst
    have hdue : TimerDue (s.afterLag 1 (List.replicate n e ++ rest)) :=
      h.imp_left fun ⟨hf, hc⟩ => ⟨hf, by simp [State.afterLag, hc]⟩
    obtain ⟨hrun, hcount⟩ := ih hdue rfl
    have hjoin : (s.afterLag 1 (List.replicate n e ++ rest)).afterLag n rest = s.afterLag (n + 1) rest := by
      simp only [State.afterLag, Nat.sub_sub, Nat.add_comm 1 n]
    rw [hjoin] at hrun hcount
    rw [Nat.add_right_comm, runFor_succ_of_step hstep, ticksIn_succ_of_step hstep, hticks, hrun, hcount]
    exact ⟨rfl, by omega⟩

/-- A timer transition as the last step of a run takes no Tick (R196, R204). -/
theorem run_of_transition {s t : State} (hd : timerDone s = true) (h : step s = .next t) :
    runFor 1 s = .next t ∧ ticksIn 1 s = 0 := by
  refine ⟨(runFor_one s).trans h, ?_⟩
  rw [ticksIn_succ_of_step h, stepTicks_timer hd]
  rfl

/-- Settles O35: `run_of_lag` for the moments that pass first, then the transition (`transmissionStartsOnlyFromSpace`, `backoffEnds`). -/
theorem transitionsTakeAnyNumberOfPeriods : Obligations.TransitionsTakeAnyNumberOfPeriods := by
  intro s n e rest hlag htick hrst henv hprompt
  have hlagu : (s.afterLag n rest).input.lag = false := hprompt
  refine ⟨fun hf hc => ?_, fun a hf hc ha => ?_⟩
  · obtain ⟨hrun, hcount⟩ := run_of_lag hlag htick hrst n 1 (Or.inl ⟨hf, hc⟩) henv
    have hzero : s.spaceCnt - n = s.spaceCnt := by omega
    have hfu : (s.afterLag n rest).fsm = .space := hf
    have hcu : (s.afterLag n rest).spaceCnt = 0 := hzero.trans hc
    obtain ⟨hstart, hticks⟩ := run_of_transition (timerDone_of_space hfu hcu hlagu)
      ((transmissionStartsOnlyFromSpace.1 _ hfu hcu).1 hlagu)
    refine ⟨by rw [hcount, hticks, Nat.add_zero], ?_⟩
    rw [hrun, hstart, State.afterLag, hzero]
  · obtain ⟨hrun, hcount⟩ := run_of_lag hlag htick hrst n 1 (Or.inr ⟨hf, hc⟩) henv
    have hfu : (s.afterLag n rest).fsm = .backoff := hf
    obtain ⟨hretry, hticks⟩ := run_of_transition (timerDone_of_backoff hfu hc hlagu)
      ((backoffEnds _ a hfu hc ha).1 hlagu)
    exact ⟨by rw [hcount, hticks, Nat.add_zero], hrun.trans hretry⟩

/-! ### Which instruction a step runs (log 10) -/

/-- In XMIT the event is the message of the message map, for either ID the core builds (R106, R136). -/
theorem transmitEvent_of_messageOf {s : State} {i : Instr} (hid : s.tx.msgid = idMove ∨ s.tx.msgid = idQuery)
    (h : messageOf s.tx.msgid s.tx.message = .ok i) : transmitEvent s = exec i s := by
  have hne : idQuery ≠ idMove := by decide
  rcases hid with hid | hid <;> rw [hid] at h <;> cases h <;> simp [transmitEvent, hid, hne]

/-- A response that is in the message map is executed (R106, R200). -/
theorem dispatchResponse_of_messageOf {s : State} {i : Instr} (h : messageOf s.rx.msgid s.rx.message = .ok i) :
    dispatchResponse s = exec i s := by
  rw [dispatchResponse, h]

/-- Settles O42: `step_event`, and in each of the three states the instruction its event runs. -/
theorem stepRunsTheDecodedInstruction : Obligations.StepRunsTheDecodedInstruction := by
  intro s i hrst
  refine ⟨fun hf hv hi => ?_, fun hf hid hi => ?_, fun u hf he hv hu hi => ?_⟩
  · cases hi
    rw [step_event (timerDone_idle hf) hrst, portEvent]
    simp [hf, hv]
  · rw [step_event (timerDone_xmit hf) hrst, portEvent]
    simp only [tickIf_fields, hf]
    rw [transmitEvent_of_messageOf (by simp only [tickIf_fields]; exact hid) (by simpa using hi)]
  · rw [step_event (timerDone_await hf) hrst, portEvent]
    simp only [tickIf_fields, hf]
    rw [awaitEvent_byte (by simpa using he) (by simpa using hv)]
    simp only [tickIf_fields, hu, afterByte, dispatchResponse_of_messageOf hi]

/-! ### An instruction placed as the next one (log 10) -/

/-- An instruction that the next step of `s'` runs, at a state with the registers of `s` that no placing touches (log 10). -/
def RunsNext (i : Instr) (s s' : State) : Prop :=
  ∃ u, step s' = onNext dropInput (exec i u) ∧
    u.motorAddr = s.motorAddr ∧ u.attempt = s.attempt ∧ u.res = s.res ∧ u.spaceCnt = s.spaceCnt ∧
    u.txOut = s.txOut ∧ u.env.tail = s.env

/-- A command at its port in IDLE is what the next step runs (R107). -/
theorem offerCommand_runsNext (op : BitVec 1) (pos : Word16) (s : State) :
    RunsNext (decodeHostCmd op pos) s (offerCommand op pos s) :=
  ⟨offerCommand op pos s, (stepRunsTheDecodedInstruction _ _ rfl).1 rfl rfl rfl, rfl, rfl, rfl, rfl, rfl, rfl⟩

/-- A frame with its reserved bits clear comes back whole from the transmit registers (R27, R111). -/
theorem message_load_of_reserved_clear (t : TxFrame) (id : Byte) {f : Message} (h : f.wf = true)
    (hres : f.comb.extractLsb' 5 2 = 0) (hle : f.payload.length ≤ maxPayload) :
    (t.load id f hle).message = f := by
  have henc := encodeFrame_of_reserved_clear id h hres
  rw [encodeFrame_of_le id _ _ _ _ hle, Except.ok.injEq] at henc
  exact (message_load t id f hle).trans (wireImage_injective (messageOfOperands_wf _ _ _ _ hle) h henc).2

/-- A frame of the core placed in the transmit registers is what the next step runs (R136). -/
theorem placeTransmit_runsNext {id : Byte} {f : Message} {i : Instr} (s : State) (h : f.wf = true)
    (hres : f.comb.extractLsb' 5 2 = 0) (hid : id = idMove ∨ id = idQuery) (hi : messageOf id f = .ok i) :
    RunsNext i s (placeTransmit id f s) := by
  have hle : f.payload.length ≤ maxPayload := ((wf_iff f).mp h).1
  have htx : (placeTransmit id f s).tx = s.tx.load id f hle := dif_pos hle
  refine ⟨placeTransmit id f s, (stepRunsTheDecodedInstruction _ i rfl).2.1 rfl ?_ ?_, rfl, rfl, rfl, rfl, rfl, rfl⟩
  · rw [htx]
    exact hid
  · rw [htx, message_load_of_reserved_clear _ _ h hres]
    exact hi

/-- The payload count of a well-formed frame is the length of its payload (R97). -/
theorem payloadCount_of_wf {f : Message} (h : f.wf = true) : (payloadCount f.comb).val = f.payload.length := by
  obtain ⟨-, hlen⟩ := (wf_iff f).mp h
  simp [payloadCount, hlen, overhead_eq]

/-- A frame of the device placed in the receive registers is there whole (R29). -/
theorem placeReceive_message (op : BitVec 1) (id : Byte) {f : Message} (s : State) (h : f.wf = true) :
    (placeReceive op id f s).rx.message = f := by
  obtain ⟨hle, -⟩ := (wf_iff f).mp h
  simp only [placeReceive, RxFrame.message, payloadCount_of_wf h, overwrite_take _ _ hle]

/-- The last byte of the placed frame completes DECODE with checksums that agree (R144 to R146). -/
theorem placeReceive_frameIn (op : BitVec 1) (id : Byte) {f : Message} (s : State) (h : f.wf = true) :
    receiveByte (loByte (checksum (bodyBytes id f))) (placeReceive op id f s) =
      .frameIn (checksumLow (loByte (checksum (bodyBytes id f))) (placeReceive op id f s)) := by
  obtain ⟨hle, -⟩ := (wf_iff f).mp h
  have h9 := hdrLen_eq
  have hidx : (placeReceive op id f s).rxIdx.val = hdrLen + 1 + (placeReceive op id f s).rx.pcount.val := by
    have hcount : (placeReceive op id f s).rx.pcount.val = f.payload.length := payloadCount_of_wf h
    rw [hcount]
    exact Nat.mod_eq_of_lt (by omega)
  rw [receiveByte_checksumLow _ hidx, compareChecksum, if_pos]
  simp [placeReceive]

/-- A frame of the device placed so is what the next step runs (R146, R200). -/
theorem placeReceive_runsNext (op : BitVec 1) {id : Byte} {f : Message} {i : Instr} (s : State)
    (h : f.wf = true) (hi : messageOf id f = .ok i) : RunsNext i s (placeReceive op id f s) := by
  refine ⟨_, (stepRunsTheDecodedInstruction (placeReceive op id f s) i rfl).2.2 _ rfl rfl rfl
    (placeReceive_frameIn op id s h) ?_, rfl, rfl, rfl, rfl, rfl, rfl⟩
  simp only [checksumLow_fields, placeReceive_message op id s h]
  exact hi

/-- Settles O43: `offerCommand_runsNext` for the commands, `placeTransmit_runsNext` and `placeReceive_runsNext` for the messages and their row of the message map. -/
theorem placedInstructionRunsNext : Obligations.PlacedInstructionRunsNext := by
  intro i s h hres
  cases i with
  | setPosition pos => exact offerCommand_runsNext 0 pos s
  | getPosition => exact offerCommand_runsNext 1 0 s
  | move f => exact placeTransmit_runsNext s h (hres f (Or.inl rfl)) (Or.inl rfl) (messageOf_move f)
  | query f => exact placeTransmit_runsNext s h (hres f (Or.inr rfl)) (Or.inr rfl) (messageOf_query f)
  | posreport f => exact placeReceive_runsNext 1 s h (messageOf_posreport f)
  | nack f => exact placeReceive_runsNext 0 s h (messageOf_nack f)
  | ack f => exact placeReceive_runsNext 0 s h (messageOf_ack f)

end Sys2Proof.Machine
